-- ==== Sys2Proof/Word.lean ====
section
/-! DEFINITION. The two word widths of the block: the byte of the transport and of every operand (R8, R31), and
the 16-bit word of the request channel (R46). -/

namespace Sys2Proof

/-- A byte: the unit of the transport port, of character codes and of control bytes (R8). -/
abbrev Byte := BitVec 8

/-- One word of the request channel (R46, `REQ_W = 16`). -/
abbrev ReqWord := BitVec 16

end Sys2Proof
end

