-- ==== Sys2Proof/Config.lean ====
section
/-! DEFINITION. What is fixed for one block (the parameters of R6), and the values the spec leaves open. -/

namespace Sys2Proof

/-- The parameters of R6 that a claim may name. They never change while the block runs; the values the spec takes
are `Config.spec` in Machine/Parameters.lean. -/
structure Config where
  /-- `INIT_NIBBLE`: the expander byte, before the backlight merge, of one raw initialization nibble (D10). -/
  initNibble : Byte
  /-- `BL_INIT`: the backlight flag after reset and at the start of INIT (D13). -/
  blInit : Bool
  /-- `T_EN_HIGH`: the hold after an enable-high write, in ticks (D12). -/
  tEnHigh : Nat
  /-- `T_EN_LOW`: the hold after an enable-low write, in ticks (D12). -/
  tEnLow : Nat
  /-- `T_INIT_SETTLE`: the hold at the end of INIT, in ticks (D12). -/
  tInitSettle : Nat
deriving DecidableEq, Repr

/-- `TICK`, the duration of one time unit: OPEN (R6, R157). It has no body, so no claim can rest on a value of it
(log entry 1). -/
opaque Config.tick : Nat

/-- Whether a transport write that reset withdrew from the port reached the expander: the spec says it is unknown
and must be allowed both ways (R147, D23, U20). A free value, applied to the counter `State.freeCount`
(log entry 2). -/
opaque Config.withdrawnWriteLands : Nat → Bool

end Sys2Proof
end

