-- ==== Sys2Proof/Machine/Parameters.lean ====
section
/-! DEFINITION. The values of the parameters (R6) and the bit names of the expander byte (R59). -/

namespace Sys2Proof

/-- The values the spec takes for the parameters a claim may name (R6): `INIT_NIBBLE = 0x30`, `BL_INIT = 1`,
holds of 5, 1 and 200 ticks. -/
def Config.spec : Config :=
  { initNibble := 0x30, blInit := true, tEnHigh := 5, tEnLow := 1, tInitSettle := 200 }

namespace Machine

/-- `EN`, the enable bit of the expander byte (R6, R59). -/
def enBit : Byte := 0x04

/-- `RS`, the register-select bit of the expander byte (R6, R59). -/
def rsBit : Byte := 0x01

/-- `BLBIT`, the backlight bit of the expander byte (R6, R59). -/
def blBit : Byte := 0x08

/-- `INIT_NIBBLE_COUNT`: how many raw nibbles INIT sends (R6, R87). -/
def initNibbleCount : Nat := 4

/-- `BL(σ)` as a function of the backlight flag (R8). -/
def blOf (backlight : Bool) : Byte := if backlight then blBit else 0

end Machine

end Sys2Proof
end

