-- ==== Sys2Proof/Syntax.lean ====
section
/-! DEFINITION. The instruction set: the six operations of the opcode map (R50), each with the operands its packet
carries. -/

namespace Sys2Proof

/-- One operation of the block, one constructor per row of spec/opcode_table.json. -/
inductive Instr where
  /-- INIT (R51): `lineCount` is the whole 8-bit `ARG`; values other than 1 and 2 are legal encodings. -/
  | init (lineCount : Byte)
  /-- WRITE_COMMAND (R52): the raw control byte. -/
  | writeCommand (b : Byte)
  /-- WRITE_CHAR (R53): the character code and the mode bit `M` (true: register-select, character data). -/
  | writeChar (c : Byte) (m : Bool)
  /-- DISPLAY_STRING (R54, R57): the line bit `L` (false: line 1, true: line 2), the column, the text. -/
  | displayString (l : Bool) (pos : Byte) (text : List Byte)
  /-- CLEAR (R55). -/
  | clear
  /-- SET_BACKLIGHT (R56). -/
  | setBacklight (on : Bool)
deriving DecidableEq, Repr

end Sys2Proof
end

