-- ==== Sys2Proof/Machine/State.lean ====
section
/-! DEFINITION. The state of the block (R10, R19, R34, R46, R155), its inputs and outputs as plain data, the
reasons a step can stop, and the state after reset (R27). -/

namespace Sys2Proof.Machine

/-- The lifecycle (R17): UNINIT is 0, READY is 1, FAILED is 2; code 3 is never reached (U13). -/
inductive Phase where
  | uninit
  | ready
  | failed
deriving DecidableEq, Repr

/-- One answer of the transport to one write (R32). -/
inductive Answer where
  | ok
  | fail
deriving DecidableEq, Repr

/-- An event of a plan, still to be performed (R70). -/
inductive PlanEvent where
  /-- `W?(b)`: write byte `b` to the transport. -/
  | write (b : Byte)
  /-- `D(n)`: wait `n` ticks. -/
  | delay (n : Nat)
deriving DecidableEq, Repr

/-- An event of a trace: what an observer outside saw (R8, R70). -/
inductive WireEvent where
  /-- `W(b)`: a write the transport answered `ok`. -/
  | wrote (b : Byte)
  /-- `WF(b)`: a write the transport answered `fail`. -/
  | writeFailed (b : Byte)
  /-- `D(n)`: a delay of `n` ticks. -/
  | delayed (n : Nat)
deriving DecidableEq, Repr

/-- The status of a response (R68). -/
inductive Status where
  | ok
  | transportError
  | configurationError
  | notUsable
  | illegalRequest
deriving DecidableEq, Repr

/-- Why the model stops with a fault. No state a run reaches gives one: every failure of the spec is a response
after which the block goes on (R120). -/
inductive Fault where
  /-- Raised by `step` only, in a state with `busy = 1`, no packet being taken and no operation in `cur`. The spec
  gives the sequencer no action there (R19, R82) and no run reaches it. Safe. -/
  | noOperation
deriving DecidableEq, Repr

/-- Why the model refuses a step. -/
inductive Refusal where
  /-- Raised by an arm of `exec` whose instruction has no meaning yet; there is none. Safe. -/
  | notModelled (mnemonic : String)
deriving DecidableEq, Repr

/-- The block's state, its ports, its parameters, and the inputs and outputs of its environment. -/
structure State where
  /-- The lifecycle phase (R17). -/
  phase : Phase
  /-- The backlight flag, merged into every written byte (R11). -/
  backlight : Bool
  /-- The number of display lines, 0 until an INIT was accepted (R13). -/
  lineCount : BitVec 2
  /-- Shadow register: flags of the last entry-mode-set byte (R14). -/
  entryMode : Byte
  /-- Shadow register: flags of the last display-control byte (R14). -/
  displayControl : Byte
  /-- Shadow register: flags of the last function-set byte (R14). -/
  functionSet : Byte
  /-- An operation is in progress, or its packet is being taken (R19, R47). -/
  busy : Bool
  /-- The decoded operation in progress (R19). -/
  cur : Option Instr
  /-- The events of `cur` still to be performed, the next one first (R19). -/
  plan : List PlanEvent
  /-- The words already taken of a packet whose last word has not come (R47, R57). -/
  packet : List ReqWord
  /-- The transport port: the byte of the write outstanding on it (`tx_valid`, `tx_data`), if any (R34). -/
  txPort : Option Byte
  /-- The delay counter: ticks left of the delay being counted, 0 when none is (R155). -/
  delayLeft : Nat
  /-- The response port: the status presented in this cycle (`rsp_valid`, `rsp_status`), if any (R46). -/
  rsp : Option Status
  /-- The parameters of the block (R6); nothing writes them. -/
  config : Config
  /-- Input pin `rst` (R145). -/
  rst : Bool
  /-- Input pin `cfg_valid` (R46, R85). -/
  cfgValid : Bool
  /-- The words the host presents on the request channel, the next one first (R45). -/
  requests : List ReqWord
  /-- The transport's answers to the writes to come, the next one first (R32); empty while it is silent (R160). -/
  answers : List Answer
  /-- Everything the block has done on the wire, oldest first (R8). -/
  trace : List WireEvent
  /-- Every response it has presented, oldest first (R45). -/
  responses : List Status
  /-- How many free values have been used; the model's own (log entry 2). -/
  freeCount : Nat
deriving DecidableEq, Repr

/-- The state after reset of a block with parameters `c` (R27), its environment quiet: `rst` released, the transport
set up (`cfg_valid = 1`), no word presented, no answer given. -/
def State.resetWith (c : Config) : State :=
  { phase := .uninit, backlight := c.blInit, lineCount := 0,
    entryMode := 0, displayControl := 0, functionSet := 0,
    busy := false, cur := none, plan := [], packet := [], txPort := none, delayLeft := 0, rsp := none,
    config := c, rst := false, cfgValid := true, requests := [], answers := [],
    trace := [], responses := [], freeCount := 0 }

/-- The state after reset, with the spec's parameters (R27, R6). -/
def State.reset : State := State.resetWith Config.spec

end Sys2Proof.Machine
end

