-- ==== Sys2Proof/Machine/Operands.lean ====
section
/-! DEFINITION. The control bytes (R61 to R64), how operands become wire values (R65, R106), and the logical bytes
each operation sends. -/

namespace Sys2Proof.Machine

/-- CLEARDISPLAY (R61). -/
def cmdClearDisplay : Byte := 0x01
/-- RETURNHOME (R61). -/
def cmdReturnHome : Byte := 0x02
/-- ENTRYMODESET, the base value (R61). -/
def cmdEntryModeSet : Byte := 0x04
/-- DISPLAYCONTROL, the base value (R61). -/
def cmdDisplayControl : Byte := 0x08
/-- FUNCTIONSET, the base value (R61). -/
def cmdFunctionSet : Byte := 0x20
/-- SETDDRAMADDR, the base value (R61). -/
def cmdSetDdramAddr : Byte := 0x80

/-- LEFT, a flag of ENTRYMODESET (R61). -/
def flagLeft : Byte := 0x02
/-- SHIFTINCREMENT, a flag of ENTRYMODESET (R61). -/
def flagShiftIncrement : Byte := 0x01
/-- ON, a flag of DISPLAYCONTROL (R61). -/
def flagOn : Byte := 0x04
/-- CURSORON, a flag of DISPLAYCONTROL (R61). -/
def flagCursorOn : Byte := 0x02
/-- BLINKON, a flag of DISPLAYCONTROL (R61). -/
def flagBlinkOn : Byte := 0x01
/-- 8BIT, a flag of FUNCTIONSET (R61). -/
def flag8Bit : Byte := 0x10
/-- 2LINE, a flag of FUNCTIONSET (R61). -/
def flag2Line : Byte := 0x08
/-- 5x10DOTS, a flag of FUNCTIONSET (R61). -/
def flag5x10Dots : Byte := 0x04
/-- 5x8DOTS: the absence of 5x10DOTS (R64). -/
def flag5x8Dots : Byte := 0x00
/-- 4BITMODE: the absence of 8BIT (R64). -/
def flag4BitMode : Byte := 0x00

/-- The function-set byte of INIT, the same for one and two lines (R63, R88). -/
def initFunctionSet : Byte := cmdFunctionSet ||| flag2Line ||| flag5x8Dots ||| flag4BitMode
/-- The display-control byte of INIT: display on, cursor off, blink off (R63). -/
def initDisplayControl : Byte := cmdDisplayControl ||| flagOn
/-- The entry-mode-set byte of INIT: left to right, no shift (R63). -/
def initEntryMode : Byte := cmdEntryModeSet ||| flagLeft

/-- The line counts INIT accepts are exactly 1 and 2 (R85). -/
def lineCountOk (lineCount : Byte) : Bool := lineCount == 1 || lineCount == 2

/-- The mode of a logical byte: `zext_8(M)`, the register-select bit or 0 (R65). -/
def modeOf (m : Bool) : Byte := if m then rsBit else 0

/-- The DDRAM address of a line and column: the sum is modulo 256 (R106). -/
def ddramAddress (l : Bool) (pos : Byte) : Byte := pos + (if l then 0x40 else 0x00)

/-- The addressing command of DISPLAY_STRING: `0x80 | address` (R106). -/
def addressCommand (l : Bool) (pos : Byte) : Byte := cmdSetDdramAddr ||| ddramAddress l pos

/-- A byte an operation sends whole, as two nibbles, with its register-select value (R74). -/
structure LogicalByte where
  /-- The byte. -/
  byte : Byte
  /-- Register-select: false for a control byte, true for character data. -/
  data : Bool
deriving DecidableEq, Repr

/-- A control byte: register-select 0. -/
def controlByte (b : Byte) : LogicalByte := { byte := b, data := false }

/-- A character: register-select 1. -/
def dataByte (c : Byte) : LogicalByte := { byte := c, data := true }

/-- The logical bytes an operation sends through `SendByte`, in sending order (R88, R95, R98, R105, R110, R116). -/
def logicalBytes : Instr → List LogicalByte
  | .init _ =>
    [controlByte initFunctionSet, controlByte initDisplayControl, controlByte cmdClearDisplay,
      controlByte initEntryMode]
  | .writeCommand b => [controlByte b]
  | .writeChar c m => [{ byte := c, data := m }]
  | .displayString l pos text => controlByte (addressCommand l pos) :: text.map dataByte
  | .clear => [controlByte cmdClearDisplay, controlByte cmdReturnHome]
  | .setBacklight _ => []

end Sys2Proof.Machine
end

