-- ==== Sys2Proof/Machine/Flags.lean ====
section
/-! DEFINITION. The flag-like state: the shadow registers (R14, R15) and the codes of the phase and of the response
status (R10, R68). -/

namespace Sys2Proof.Machine

/-- `ShadowUpdate(σ, byte)` (R15): a control byte of one of three kinds is recorded, flags only, base bit dropped;
any other byte changes nothing. -/
def shadowUpdate (s : State) (byte : Byte) : State :=
  if byte &&& 0xFC = 0x04 then { s with entryMode := byte &&& 0x03 }
  else if byte &&& 0xF8 = 0x08 then { s with displayControl := byte &&& 0x07 }
  else if byte &&& 0xE0 = 0x20 then { s with functionSet := byte &&& 0x1C }
  else s

/-- The code of a phase on the status output (R10). -/
def Phase.code : Phase → BitVec 2
  | .uninit => 0
  | .ready => 1
  | .failed => 2

/-- The code of a response status (R68). -/
def Status.code : Status → BitVec 3
  | .ok => 0
  | .transportError => 1
  | .configurationError => 2
  | .notUsable => 3
  | .illegalRequest => 4

end Sys2Proof.Machine
end

