-- ==== Sys2Proof/Machine/NibbleEngine.lean ====
section
/-! DEFINITION. The nibble multiplexer and the enable-strobing engine (R72, R74), and the plan runner (R79). -/

namespace Sys2Proof.Machine

/-- `NibbleCycle(n, bl)` (R72): set up, enable high, hold, enable low, hold. -/
def nibbleCycle (c : Config) (n bl : Byte) : List PlanEvent :=
  [ .write (n ||| bl),
    .write (n ||| enBit ||| bl),
    .delay c.tEnHigh,
    .write ((n &&& ~~~enBit) ||| bl),
    .delay c.tEnLow ]

/-- The nibble that carries the high half of a byte (R74). -/
def highNibble (b m : Byte) : Byte := m ||| (b &&& 0xF0)

/-- The nibble that carries the low half of a byte (R74). -/
def lowNibble (b m : Byte) : Byte := m ||| ((b <<< 4) &&& 0xF0)

/-- `SendByte(b, m, bl)` (R74): the high nibble first, the low nibble second. -/
def sendByte (c : Config) (b m bl : Byte) : List PlanEvent :=
  nibbleCycle c (highNibble b m) bl ++ nibbleCycle c (lowNibble b m) bl

/-- The plan that sends logical bytes one after another. -/
def sendAll (c : Config) (bl : Byte) : List LogicalByte → List PlanEvent
  | [] => []
  | x :: xs => sendByte c x.byte (modeOf x.data) bl ++ sendAll c bl xs

/-- `RawPhase(bl)` (R87): the raw nibbles, each a single nibble cycle on its own. -/
def rawPhase (c : Config) (bl : Byte) : List PlanEvent :=
  (List.replicate initNibbleCount (nibbleCycle c c.initNibble bl)).flatten

/-- How running a plan ended. -/
inductive RunEnd where
  /-- Every event was performed, every write answered `ok`. -/
  | done
  /-- A write was answered `fail`. -/
  | failed
  /-- A write has been put on the port and the transport has not answered (R160). -/
  | waiting
deriving DecidableEq, Repr

/-- The result of running a plan: the events performed, the plan and the answers left, and how it ended. -/
structure Run where
  trace : List WireEvent
  plan : List PlanEvent
  answers : List Answer
  ending : RunEnd
deriving DecidableEq, Repr

/-- Puts an event in front of a run's trace. -/
def Run.after (e : WireEvent) (r : Run) : Run := { r with trace := e :: r.trace }

/-- `RunPlan(plan, answers)` (R79): one answer per write, stop at the first failed write. Where the transport has
given no answer to a write, the run waits at that write (R32, R160). -/
def runPlan : List PlanEvent → List Answer → Run
  | [], as => { trace := [], plan := [], answers := as, ending := .done }
  | .delay n :: p, as => (runPlan p as).after (.delayed n)
  | .write b :: p, [] => { trace := [], plan := .write b :: p, answers := [], ending := .waiting }
  | .write b :: p, .ok :: as => (runPlan p as).after (.wrote b)
  | .write b :: _, .fail :: as => { trace := [.writeFailed b], plan := [], answers := as, ending := .failed }

/-- The byte of the write at the head of a plan. -/
def headWrite : List PlanEvent → Option Byte
  | .write b :: _ => some b
  | _ => none

end Sys2Proof.Machine
end

