-- ==== Sys2Proof/Machine/Ops.lean ====
section
/-! DEFINITION. The operations every instruction shares: presenting a response, refusing, starting an operation,
running its plan (R80), the commit (R81), failure entry (R127), the fresh state of INIT (R86, R129) and reset
(R145 to R147). -/

namespace Sys2Proof.Machine

/-- `BL(σ)` (R8). -/
def State.bl (s : State) : Byte := blOf s.backlight

/-- A response is presented for one cycle (R46): the next step starts with the port empty. -/
def State.clearRsp (s : State) : State := { s with rsp := none }

/-- Presents a response, which ends the operation: `busy <- 0`, `cur <- none`, nothing left to do (R47, R169). -/
def respond (st : Status) (s : State) : State :=
  { s with busy := false, cur := none, plan := [], packet := [], txPort := none, delayLeft := 0,
           rsp := some st, responses := s.responses ++ [st] }

/-- The sequencer takes an operation: `busy <- 1`, `cur <- op`, `plan <- P(op, σ)` (R82). -/
def startOp (op : Instr) (plan : List PlanEvent) (s : State) : State :=
  { s with busy := true, cur := some op, plan := plan, packet := [], txPort := none, delayLeft := 0 }

/-- Check 2 of R126: an operation other than INIT is taken only in READY, else the response is NotUsable (R123). -/
def whenReady (s : State) (accepted : State) : State :=
  if s.phase = .ready then accepted else respond .notUsable s

/-- The control bytes (mode 0) an operation sends through `SendByte`, in sending order (R81). -/
def controlBytes (op : Instr) : List Byte :=
  ((logicalBytes op).filter (fun x => !x.data)).map LogicalByte.byte

/-- INIT ends in READY; no other commit writes the phase (R81). -/
def commitPhase (op : Instr) (s : State) : State :=
  match op with
  | .init _ => { s with phase := .ready }
  | .writeCommand _ => s
  | .writeChar _ _ => s
  | .displayString _ _ _ => s
  | .clear => s
  | .setBacklight _ => s

/-- The commit `C(op)` (R81): the shadow updates of the control bytes sent, in order, then INIT's phase. -/
def commit (op : Instr) (s : State) : State :=
  commitPhase op ((controlBytes op).foldl shadowUpdate s)

/-- The commit of the operation in progress. -/
def commitCur (s : State) : State :=
  match s.cur with
  | some op => commit op s
  | none => s

/-- Failure entry (R127): `phase <- FAILED`, the response is TransportError, nothing is saved, nothing committed
(R80). -/
def failEntry (s : State) : State := respond .transportError { s with phase := .failed }

/-- `Exec` (R80) from wherever the operation in progress stands: its plan is run; on `ok` the commit and the
response OK; on `fail` failure entry; where the transport is silent the operation waits with its write on the port
(R34, R160). A block that is not busy has nothing to run. -/
def proceed (s : State) : State :=
  if s.busy then
    let r := runPlan s.plan s.answers
    let t := { s with trace := s.trace ++ r.trace, answers := r.answers, plan := r.plan, delayLeft := 0 }
    match r.ending with
    | .done => respond .ok (commitCur t)
    | .failed => failEntry t
    | .waiting => { t with txPort := headWrite r.plan }
  else s

/-- The fresh state INIT makes when it is accepted (R86); it is also the only way out of FAILED but reset (R129). -/
def freshState (lineCount : Byte) (s : State) : State :=
  { s with phase := .uninit, backlight := s.config.blInit, lineCount := lineCount.setWidth 2,
           entryMode := 0, displayControl := 0, functionSet := 0 }

/-- What the trace records of a write that reset withdraws from the port: it reached the expander or it did not,
and the block does not know (R147, D23): a free value. -/
def withdrawnWrite (s : State) : List WireEvent :=
  match s.txPort with
  | some b => if Config.withdrawnWriteLands s.freeCount then [.wrote b] else []
  | none => []

/-- A cycle with `rst = 1` (R145): `σ` takes its reset values, the ports fall, no response is given for an operation
in progress (R147). The pins, the words and answers not yet taken, and what was already seen outside stay. -/
def resetBlock (s : State) : State :=
  { State.resetWith s.config with
    rst := s.rst, cfgValid := s.cfgValid, requests := s.requests, answers := s.answers,
    trace := s.trace ++ withdrawnWrite s, responses := s.responses,
    freeCount := if s.txPort.isSome then s.freeCount + 1 else s.freeCount }

end Sys2Proof.Machine
end

