-- ==== Sys2Proof/Machine/Backlight.lean ====
section
/-! DEFINITION. SET_BACKLIGHT (R115 to R118). -/

namespace Sys2Proof.Machine

/-- SET_BACKLIGHT is taken (R116): the flag is written first, then the plan is the backlight bit alone, one write
and no strobe. -/
def acceptSetBacklight (on : Bool) (s : State) : State :=
  let t := { s with backlight := on }
  whenReady s (startOp (.setBacklight on) [.write t.bl] t)

/-- SET_BACKLIGHT. -/
def execSetBacklight (on : Bool) (s : State) : Host.Outcome State Fault Refusal :=
  .next (proceed (acceptSetBacklight on s))

end Sys2Proof.Machine
end

