-- ==== Sys2Proof/Machine/DisplayOps.lean ====
section
/-! DEFINITION. The composite operations DISPLAY_STRING (R105 to R109) and CLEAR (R110 to R113). -/

namespace Sys2Proof.Machine

/-- DISPLAY_STRING is taken (R105): the addressing command, then each character with register-select 1. The line is
not compared with `lineCount` and the column is not checked (R106, R107). -/
def acceptDisplayString (l : Bool) (pos : Byte) (text : List Byte) (s : State) : State :=
  whenReady s
    (startOp (.displayString l pos text) (sendAll s.config s.bl (logicalBytes (.displayString l pos text))) s)

/-- DISPLAY_STRING. -/
def execDisplayString (l : Bool) (pos : Byte) (text : List Byte) (s : State) :
    Host.Outcome State Fault Refusal :=
  .next (proceed (acceptDisplayString l pos text s))

/-- CLEAR is taken (R110): clear-display, then return-home. -/
def acceptClear (s : State) : State :=
  whenReady s (startOp .clear (sendAll s.config s.bl (logicalBytes .clear)) s)

/-- CLEAR. -/
def execClear (s : State) : Host.Outcome State Fault Refusal :=
  .next (proceed (acceptClear s))

end Sys2Proof.Machine
end

