-- ==== Sys2Proof/Machine/Init.lean ====
section
/-! DEFINITION. INIT, the initialization sequencer (R85 to R93). -/

namespace Sys2Proof.Machine

/-- The plan of INIT (R90): the raw nibbles, the four commands (R88), the settle hold (R89). -/
def initPlan (c : Config) (bl : Byte) (lineCount : Byte) : List PlanEvent :=
  rawPhase c bl ++ sendAll c bl (logicalBytes (.init lineCount)) ++ [.delay c.tInitSettle]

/-- INIT is taken (R85): the configuration check, then the fresh state (R86), then the plan computed from it. It is
accepted in every phase. -/
def acceptInit (lineCount : Byte) (s : State) : State :=
  if s.cfgValid && lineCountOk lineCount then
    let t := freshState lineCount s
    startOp (.init lineCount) (initPlan t.config t.bl lineCount) t
  else respond .configurationError s

/-- INIT. -/
def execInit (lineCount : Byte) (s : State) : Host.Outcome State Fault Refusal :=
  .next (proceed (acceptInit lineCount s))

end Sys2Proof.Machine
end

