-- ==== Sys2Proof/Machine/WriteOps.lean ====
section
/-! DEFINITION. The byte operations WRITE_COMMAND (R95 to R97) and WRITE_CHAR (R98 to R101). -/

namespace Sys2Proof.Machine

/-- WRITE_COMMAND is taken (R95): any byte, sent uninspected as a control byte. -/
def acceptWriteCommand (b : Byte) (s : State) : State :=
  whenReady s (startOp (.writeCommand b) (sendAll s.config s.bl (logicalBytes (.writeCommand b))) s)

/-- WRITE_COMMAND. -/
def execWriteCommand (b : Byte) (s : State) : Host.Outcome State Fault Refusal :=
  .next (proceed (acceptWriteCommand b s))

/-- WRITE_CHAR is taken (R98): the code is sent with register-select `M`. -/
def acceptWriteChar (c : Byte) (m : Bool) (s : State) : State :=
  whenReady s (startOp (.writeChar c m) (sendAll s.config s.bl (logicalBytes (.writeChar c m))) s)

/-- WRITE_CHAR. -/
def execWriteChar (c : Byte) (m : Bool) (s : State) : Host.Outcome State Fault Refusal :=
  .next (proceed (acceptWriteChar c m s))

end Sys2Proof.Machine
end

