-- ==== Sys2Proof/Machine/Dispatch.lean ====
section
/-! DEFINITION. One arm per operation of the opcode map (R50). -/

namespace Sys2Proof.Machine

def exec (i : Instr) (s : State) : Host.Outcome State Fault Refusal :=
  match i with
  | .init lineCount => Sys2Proof.Machine.execInit lineCount s
  | .writeCommand b => Sys2Proof.Machine.execWriteCommand b s
  | .writeChar c m => Sys2Proof.Machine.execWriteChar c m s
  | .displayString l pos text => Sys2Proof.Machine.execDisplayString l pos text s
  | .clear => Sys2Proof.Machine.execClear s
  | .setBacklight on => Sys2Proof.Machine.execSetBacklight on s

end Sys2Proof.Machine
end

