-- ==== Sys2Proof/WellFormed.lean ====
section
/-! DEFINITION. Which instruction terms are spellings of a request: every operand has its exact width already, so
the one check is that the length of a text fits the 16-bit length word (R57, R66). -/

namespace Sys2Proof

/-- The longest text a DISPLAY_STRING packet can carry (R57). -/
def maxTextLength : Nat := 65535

/-- The instruction has an encoding (R66: a longer text is not a spelling of any request). -/
def Instr.wf : Instr → Bool
  | .init _ => true
  | .writeCommand _ => true
  | .writeChar _ _ => true
  | .displayString _ _ text => decide (text.length ≤ maxTextLength)
  | .clear => true
  | .setBacklight _ => true

end Sys2Proof
end

