-- ==== Sys2Proof/Decode.lean ====
section
/-! DEFINITION. Request packets: the header layout (R48), the opcode map (R50), the reserved encodings (R58), the
variable length of DISPLAY_STRING (R57), and the encoder for all six operations. -/

namespace Sys2Proof

/-- The field `OPC` of a header, bits 15:12 (R48). -/
def headerOpc (h : ReqWord) : BitVec 4 := h.extractLsb' 12 4

/-- The field `RSV` of a header, bits 11:9 (R48). -/
def headerRsv (h : ReqWord) : BitVec 3 := h.extractLsb' 9 3

/-- The field `F` of a header, bit 8 (R48). -/
def headerF (h : ReqWord) : Bool := h.getLsbD 8

/-- The field `ARG` of a header, bits 7:0 (R48). -/
def headerArg (h : ReqWord) : Byte := h.extractLsb' 0 8

/-- What a legal header word says: a whole one-word packet, or the start of a DISPLAY_STRING packet (R50, R57). -/
inductive Header where
  | whole (i : Instr)
  | string (l : Bool) (pos : Byte)
deriving DecidableEq, Repr

/-- Decodes a header word (R49, R50); `none` is an illegal header, by the conditions of R58. -/
def decodeHeader (h : ReqWord) : Option Header :=
  if headerRsv h ≠ 0 then none
  else
    match (headerOpc h).toNat with
    | 0 => if headerF h then none else some (.whole (.init (headerArg h)))
    | 1 => if headerF h then none else some (.whole (.writeCommand (headerArg h)))
    | 2 => some (.whole (.writeChar (headerArg h) (headerF h)))
    | 3 => some (.string (headerF h) (headerArg h))
    | 4 => if headerF h || headerArg h != 0 then none else some (.whole .clear)
    | 5 => if headerArg h != 0 then none else some (.whole (.setBacklight (headerF h)))
    | _ => none

/-- The character code in a character word: bits 7:0; bits 15:8 are ignored (R57). -/
def charOfWord (w : ReqWord) : Byte := w.setWidth 8

/-- What the words waiting on the request channel begin with. -/
inductive Decoded where
  /-- A whole packet, and the words after it. -/
  | packet (i : Instr) (rest : List ReqWord)
  /-- An illegal header, a packet of exactly one word (R58), and the words after it. -/
  | illegal (header : ReqWord) (rest : List ReqWord)
  /-- No header yet, or a DISPLAY_STRING packet some of whose words are still to come (R57). -/
  | incomplete
deriving DecidableEq, Repr

/-- Reads one packet off the front of the request channel (R57: the length of a packet is told by its first word,
and for DISPLAY_STRING by its first two). -/
def decodePacket : List ReqWord → Decoded
  | [] => .incomplete
  | h :: ws =>
    match decodeHeader h with
    | none => .illegal h ws
    | some (.whole i) => .packet i ws
    | some (.string l pos) =>
      match ws with
      | [] => .incomplete
      | len :: cs =>
        if cs.length < len.toNat then .incomplete
        else .packet (.displayString l pos ((cs.take len.toNat).map charOfWord)) (cs.drop len.toNat)

/-- Builds a header word from its fields, `RSV` zero (R48). -/
def headerWord (opc : BitVec 4) (f : Bool) (arg : Byte) : ReqWord :=
  opc ++ (0#3 ++ (BitVec.ofBool f ++ arg))

/-- The character word of a code: the upper byte written as 0 (R57). -/
def wordOfChar (c : Byte) : ReqWord := c.setWidth 16

/-- The request packet of an instruction (R50 to R57, R66). -/
def encode : Instr → List ReqWord
  | .init lineCount => [headerWord 0x0 false lineCount]
  | .writeCommand b => [headerWord 0x1 false b]
  | .writeChar c m => [headerWord 0x2 m c]
  | .displayString l pos text =>
    headerWord 0x3 l pos :: BitVec.ofNat 16 text.length :: text.map wordOfChar
  | .clear => [headerWord 0x4 false 0]
  | .setBacklight on => [headerWord 0x5 on 0]

/-- The rows of the opcode map by name (R50). -/
inductive Opcode where
  | init
  | writeCommand
  | writeChar
  | displayString
  | clear
  | setBacklight
deriving DecidableEq, Repr

/-- One row of the opcode map: a header `h` selects the row when `h & mask = value` (R50). -/
structure OpcodeRow where
  opcode : Opcode
  mask : ReqWord
  value : ReqWord
deriving DecidableEq, Repr

/-- The opcode map of R50, as its table writes it; the decoder above reads fields instead, and an obligation says
that the two agree on every header word. -/
def opcodeMap : List OpcodeRow :=
  [ ⟨.init, 0xFF00, 0x0000⟩,
    ⟨.writeCommand, 0xFF00, 0x1000⟩,
    ⟨.writeChar, 0xFE00, 0x2000⟩,
    ⟨.displayString, 0xFE00, 0x3000⟩,
    ⟨.clear, 0xFFFF, 0x4000⟩,
    ⟨.setBacklight, 0xFEFF, 0x5000⟩ ]

/-- The row's pattern matches the header. -/
def OpcodeRow.selects (r : OpcodeRow) (h : ReqWord) : Bool := h &&& r.mask == r.value

/-- The row an instruction belongs to. -/
def Instr.opcode : Instr → Opcode
  | .init _ => .init
  | .writeCommand _ => .writeCommand
  | .writeChar _ _ => .writeChar
  | .displayString _ _ _ => .displayString
  | .clear => .clear
  | .setBacklight _ => .setBacklight

/-- The row a decoded header belongs to. -/
def Header.opcode : Header → Opcode
  | .whole i => i.opcode
  | .string _ _ => .displayString

/-- Word `k` of an instruction whose bits are `w`, bit 0 the least significant bit of word 0. -/
def tableWord (nbits w k : Nat) : ReqWord := BitVec.ofNat 16 ((w % 2 ^ nbits) >>> (16 * k))

/-- The number of words of the packet whose bits are `w`: `2 + LEN` for a DISPLAY_STRING header, else one
(R57, R58). -/
def tableLength (nbits w : Nat) : Nat :=
  match decodeHeader (tableWord nbits w 0) with
  | some (.string _ _) => 2 + (tableWord nbits w 1).toNat
  | _ => 1

/-- The packet whose bits are `w`, every bit above `nbits` zero, word by word in the order the channel carries
them. -/
def tablePacket (nbits w : Nat) : List ReqWord :=
  (List.range (tableLength nbits w)).map (tableWord nbits w)

/-- The instruction the decoder reads from a packet whose bits are `w`, every bit above `nbits` zero; `none` where
it refuses. -/
def decodeTableWord (nbits w : Nat) : Option Instr :=
  match decodePacket (tablePacket nbits w) with
  | .packet i [] => some i
  | _ => none

end Sys2Proof
end

