-- ==== Sys2Proof/Machine/Fetch.lean ====
section
/-! DEFINITION. Taking a packet from the request channel (R45, R47, R57, R58), and placing one there. -/

namespace Sys2Proof.Machine

/-- What the request channel gives the sequencer. -/
inductive Fetched where
  /-- A whole packet was taken; the instruction it holds and the state without it. -/
  | packet (i : Instr) (s : State)
  /-- An illegal header was taken, one word (R58). -/
  | illegal (s : State)
  /-- There is no whole packet yet; the words there are have been taken. -/
  | waiting (s : State)
deriving DecidableEq, Repr

/-- Takes words until a packet is whole or the channel is empty. Taking a header sets `busy` (R47); the words of an
unfinished DISPLAY_STRING packet are kept until the last one comes (R57). -/
def fetch (s : State) : Fetched :=
  match decodePacket (s.packet ++ s.requests) with
  | .packet i rest => .packet i { s with packet := [], requests := rest }
  | .illegal _ rest => .illegal { s with packet := [], requests := rest }
  | .incomplete =>
    .waiting
      { s with busy := s.busy || !s.requests.isEmpty, packet := s.packet ++ s.requests, requests := [] }

/-- `s` with `words` next on the request channel and the sequencer ready to take them: out of reset, no operation
in progress. -/
def placePacket (s : State) (words : List ReqWord) : State :=
  { s with rst := false, busy := false, cur := none, plan := [], packet := [], txPort := none, delayLeft := 0,
           requests := words ++ s.requests }

end Sys2Proof.Machine
end

