-- ==== Sys2Proof/Machine/Step.lean ====
section
/-! DEFINITION. One step of the block: a reset cycle, or the operation in progress taken as far as the transport
answers, or the next packet of the request channel (R47, R126, R145). -/

namespace Sys2Proof.Machine

/-- One step. In reset the block takes its reset state (R145). While an operation runs it goes on with it and takes
no request (R47). Otherwise it takes the next packet and executes it; an illegal header is answered IllegalRequest
(R124); an unfinished packet or an empty channel leaves it waiting (R160, R169). -/
def step (s : State) : Host.Outcome State Fault Refusal :=
  if s.rst then .next (resetBlock s)
  else if s.busy && s.packet.isEmpty then
    match s.cur with
    | none => .fault .noOperation
    | some _ => .next (proceed s.clearRsp)
  else
    match fetch s.clearRsp with
    | .packet i t => exec i t
    | .illegal t => .next (respond .illegalRequest t)
    | .waiting t => .next t

/-- `s` with the packet whose bits are `w` (every bit above `nbits` zero) next on the request channel. -/
def State.withFetchWord (s : State) (nbits w : Nat) : State := placePacket s (tablePacket nbits w)

end Sys2Proof.Machine
end

