-- ==== Sys2Proof/Machine/Assembler.lean ====
section
/-! DEFINITION. The textual form of a request (R66) and the pseudo-operations (R67). -/

namespace Sys2Proof.Machine

/-- One line of assembler text, operands as the numbers written in it. -/
inductive AsmLine where
  | init (lineCount : Nat)
  | writeCommand (b : Nat)
  | writeChar (c mode : Nat)
  | displayString (text : List Nat) (line pos : Nat)
  | clear
  | setBacklight (on : Bool)
  /-- Pseudo-operation `writeChar(C)`. -/
  | writeCharDefault (c : Nat)
  /-- Pseudo-operation `displayString(T)`. -/
  | displayStringDefault (text : List Nat)
  /-- Pseudo-operation `displayString(T, N)`. -/
  | displayStringLine (text : List Nat) (line : Nat)
deriving DecidableEq, Repr

/-- A number as a byte; none where it does not fit. -/
def asmByte (n : Nat) : Option Byte := if n < 256 then some (BitVec.ofNat 8 n) else none

/-- A text as character codes; none where a code does not fit 8 bits or the text is too long (R66). -/
def asmText (text : List Nat) : Option (List Byte) :=
  if text.length ≤ maxTextLength then text.mapM asmByte else none

/-- The line bit `L`; only lines 1 and 2 have a spelling (R66). -/
def asmLine (line : Nat) : Option Bool :=
  if line = 1 then some false else if line = 2 then some true else none

/-- The mode bit `M`; only 0 and `Rs` have a spelling (R66). -/
def asmMode (mode : Nat) : Option Bool :=
  if mode = 0 then some false else if mode = 1 then some true else none

/-- The instruction of a DISPLAY_STRING line (R66). -/
def asmDisplayString (text : List Nat) (line pos : Nat) : Option Instr :=
  match asmText text, asmLine line, asmByte pos with
  | some t, some l, some p => some (.displayString l p t)
  | _, _, _ => none

/-- The instruction of a WRITE_CHAR line (R66). -/
def asmWriteChar (c mode : Nat) : Option Instr :=
  match asmByte c, asmMode mode with
  | some c, some m => some (.writeChar c m)
  | _, _ => none

/-- The instruction a line stands for; none where the assembler refuses it (R66). The pseudo-operations take the
defaults `mode = Rs`, `line = 1`, `pos = 0` (R67). -/
def assemble : AsmLine → Option Instr
  | .init n => (asmByte n).map .init
  | .writeCommand b => (asmByte b).map .writeCommand
  | .writeChar c mode => asmWriteChar c mode
  | .displayString text line pos => asmDisplayString text line pos
  | .clear => some .clear
  | .setBacklight on => some (.setBacklight on)
  | .writeCharDefault c => asmWriteChar c 1
  | .displayStringDefault text => asmDisplayString text 1 0
  | .displayStringLine text line => asmDisplayString text line 0

/-- The packet of a line (R66). -/
def assemblePacket (line : AsmLine) : Option (List ReqWord) := (assemble line).map encode

end Sys2Proof.Machine
end

