-- ==== Sys2Proof/Machine/Host.lean ====
section
/-! DEFINITION. The block's pins: what the host and the transport may do to it (R167), and what it drives
(R24, R34, R46). -/

namespace Sys2Proof.Machine

/-- One move of the environment (R167). -/
inductive HostMove where
  /-- The host presents one more word on the request channel. -/
  | present (w : ReqWord)
  /-- The transport gives one more answer. -/
  | answer (a : Answer)
  /-- The host drives `rst`. -/
  | driveRst (v : Bool)
  /-- The host drives `cfg_valid`. -/
  | driveCfgValid (v : Bool)
deriving DecidableEq, Repr

/-- The state after a move of the environment: it touches inputs and nothing else. -/
def HostMove.apply (m : HostMove) (s : State) : State :=
  match m with
  | .present w => { s with requests := s.requests ++ [w] }
  | .answer a => { s with answers := s.answers ++ [a] }
  | .driveRst v => { s with rst := v }
  | .driveCfgValid v => { s with cfgValid := v }

/-- The pins the block drives. -/
structure Outputs where
  phase : BitVec 2
  backlight : BitVec 1
  lineCount : BitVec 2
  /-- `entryMode[1:0]`. -/
  entryMode : BitVec 2
  /-- `displayControl[2:0]`. -/
  displayControl : BitVec 3
  /-- `functionSet[4:2]`. -/
  functionSet : BitVec 3
  busy : BitVec 1
  reqReady : Bool
  /-- `tx_valid` and `tx_data`. -/
  tx : Option Byte
  /-- `rsp_valid` and `rsp_status`. -/
  rsp : Option (BitVec 3)
deriving DecidableEq, Repr

/-- What the block drives in a state: the status outputs of R24, `req_ready` as R47 says, the transport port of R34
and the response port of R46; in reset `req_ready`, `tx_valid` and `rsp_valid` are 0 (R145). -/
def State.outputs (s : State) : Outputs :=
  { phase := s.phase.code, backlight := BitVec.ofBool s.backlight, lineCount := s.lineCount,
    entryMode := s.entryMode.extractLsb' 0 2, displayControl := s.displayControl.extractLsb' 0 3,
    functionSet := s.functionSet.extractLsb' 2 3, busy := BitVec.ofBool s.busy,
    reqReady := !s.rst && (!s.busy || !s.packet.isEmpty),
    tx := if s.rst then none else s.txPort,
    rsp := if s.rst then none else s.rsp.map Status.code }

end Sys2Proof.Machine
end

