-- ==== Sys2Proof/Machine/Program.lean ====
section
/-! DEFINITION. Runs (R169, R170): request packets given to the block one after another, each after the response to
the one before. -/

namespace Sys2Proof.Machine

/-- The operation has ended: its response was presented and nothing is in progress (R169). -/
def State.ended (s : State) : Bool :=
  !s.busy && s.cur.isNone && s.plan.isEmpty && s.packet.isEmpty && s.txPort.isNone && s.delayLeft == 0

/-- One request packet of a run, with the value of `cfg_valid` while it is taken, which a claim about a run must name
(R170). -/
structure Request where
  words : List ReqWord
  cfgValid : Bool
deriving DecidableEq, Repr

/-- The words are exactly one request packet: the whole packet of an operation (R57), or one illegal header (R58). -/
def isPacket (words : List ReqWord) : Bool :=
  match decodePacket words with
  | .packet _ rest => rest.isEmpty
  | .illegal _ rest => rest.isEmpty
  | .incomplete => false

/-- What the host sets up to give the packet: its words on the channel, `cfg_valid` driven. -/
def Request.present (r : Request) (s : State) : State := { s with requests := r.words, cfgValid := r.cfgValid }

/-- The block can be given the packet of a run: its last operation has ended, it is out of reset, and no other word
is on the channel (R47, R145, R170). -/
def State.takes (s : State) (r : Request) : Bool :=
  s.ended && !s.rst && s.requests.isEmpty && isPacket r.words

/-- The state a step ends an operation in; none where the operation has not ended, since a busy state is no end state
(R169). -/
def endedAt (o : Host.Outcome State Fault Refusal) : Option State :=
  match o with
  | .next t => if t.ended then some t else none
  | .fault _ => none
  | .refused _ => none

/-- One packet of a run: the state in which its operation has ended. Each write attempted takes one answer of the
transport from `State.answers`; where they run out the operation waits and there is no end state (R160). -/
def giveRequest (r : Request) (s : State) : Option State :=
  if s.takes r then endedAt (step (r.present s)) else none

/-- A run (R169): its end state, none where some packet's operation does not end. Also the run of no packet starts in
an end state (R170). -/
def runRequests : List Request → State → Option State
  | [], s => if s.ended then some s else none
  | r :: rs, s =>
    match giveRequest r s with
    | some t => runRequests rs t
    | none => none

/-- Operations executed one after another, each from the state the one before ended in, without the request channel;
none where one does not end. -/
def runOps : List Instr → State → Option State
  | [], s => some s
  | i :: is, s =>
    match exec i s with
    | .next t => if t.ended then runOps is t else none
    | .fault _ => none
    | .refused _ => none

end Sys2Proof.Machine
end

