-- ==== Sys2Proof/Machine/Sequencer.lean ====
section
/-! DEFINITION. The small-step view of the sequencer (R82): one word taken, one port action or one tick of the delay
counter at a time. `step` is the big-step view, which D29 makes the normative one; an obligation says that a step
is a run of these ticks. -/

namespace Sys2Proof.Machine

/-- The acceptance of an operation: the checks of R126 and the acceptance-time writes, before the first event. -/
def accept (i : Instr) (s : State) : State :=
  match i with
  | .init lineCount => acceptInit lineCount s
  | .writeCommand b => acceptWriteCommand b s
  | .writeChar c m => acceptWriteChar c m s
  | .displayString l pos text => acceptDisplayString l pos text s
  | .clear => acceptClear s
  | .setBacklight on => acceptSetBacklight on s

/-- The event at the head of the plan is over: it is seen outside, and the plan goes on behind it. -/
def finishEvent (e : WireEvent) (rest : List PlanEvent) (s : State) : State :=
  { s with trace := s.trace ++ [e], plan := rest, txPort := none, delayLeft := 0 }

/-- One tick of a delay `D(n)` at the head of the plan (R155): the counter is loaded, counts down, and the event is
over when it has counted `n`. -/
def tickDelay (n : Nat) (rest : List PlanEvent) (s : State) : State :=
  match s.delayLeft, n with
  | 0, 0 => finishEvent (.delayed n) rest s
  | 0, n + 1 => { s with delayLeft := n + 1 }
  | 1, n => finishEvent (.delayed n) rest s
  | k + 2, _ => { s with delayLeft := k + 1 }

/-- One action of a write `W?(b)` at the head of the plan (R34): the byte is put on the port; then the answer is
taken when there is one. -/
def tickWrite (b : Byte) (rest : List PlanEvent) (s : State) : State :=
  match s.txPort, s.answers with
  | none, _ => { s with txPort := some b }
  | some _, [] => s
  | some _, .ok :: as => finishEvent (.wrote b) rest { s with answers := as }
  | some _, .fail :: as => failEntry { s with answers := as, trace := s.trace ++ [.writeFailed b] }

/-- One action of the operation in progress (R82). -/
def tickPlan (s : State) : State :=
  match s.plan with
  | [] => respond .ok (commitCur s)
  | .delay n :: rest => tickDelay n rest s
  | .write b :: rest => tickWrite b rest s

/-- One word of the request channel is taken (R47, R57). -/
def tickWord (s : State) : State :=
  match s.requests with
  | [] => s
  | w :: ws =>
    let t := { s with requests := ws }
    match decodePacket (s.packet ++ [w]) with
    | .packet i _ => accept i { t with packet := [] }
    | .illegal _ _ => respond .illegalRequest { t with packet := [] }
    | .incomplete => { t with busy := true, packet := s.packet ++ [w] }

/-- One tick of the sequencer. -/
def tick (s : State) : State :=
  if s.rst then resetBlock s
  else if s.busy && s.packet.isEmpty then tickPlan s.clearRsp
  else tickWord s.clearRsp

/-- `n` ticks. -/
def ticks : Nat → State → State
  | 0, s => s
  | n + 1, s => ticks n (tick s)

end Sys2Proof.Machine
end

