-- ==== Sys2Proof/Safety.lean ====
section
/-! DEFINITION. The terms claims are stated in: what a plan looks like on the wire, the state an operation leaves when
it ends, the invariants of the state (R25) and of the wire (R60, R76, R77), and the states a run can reach. -/

namespace Sys2Proof.Machine

/-- The bytes a plan writes, in order. -/
def writesOf : List PlanEvent → List Byte
  | [] => []
  | .write b :: p => b :: writesOf p
  | .delay _ :: p => writesOf p

/-- The delay events of a plan, in order. -/
def delaysOf : List PlanEvent → List Nat
  | [] => []
  | .write _ :: p => delaysOf p
  | .delay n :: p => n :: delaysOf p

/-- The ticks a plan waits (R168). -/
def ticksOf (p : List PlanEvent) : Nat := (delaysOf p).sum

/-- The least time a plan takes, in the unit of `Config.tick` (R157: a delay is a lower bound). -/
def leastDuration (p : List PlanEvent) : Nat := ticksOf p * Config.tick

/-- The trace of a plan whose writes were all answered `ok`. -/
def performed (p : List PlanEvent) : List WireEvent :=
  p.map fun e => match e with
    | .write b => .wrote b
    | .delay n => .delayed n

/-- The trace of a plan of which `k` writes were answered `ok` and the next one `fail`: the events before that
write, the failed write, nothing after it (R79). -/
def cutAt : List PlanEvent → Nat → List WireEvent
  | [], _ => []
  | .delay n :: p, k => .delayed n :: cutAt p k
  | .write b :: _, 0 => [.writeFailed b]
  | .write b :: p, k + 1 => .wrote b :: cutAt p k

/-- The byte a wire event put or tried to put on the port. -/
def WireEvent.byte : WireEvent → Option Byte
  | .wrote b => some b
  | .writeFailed b => some b
  | .delayed _ => none

/-- The plan event a wire event was. -/
def WireEvent.planned : WireEvent → PlanEvent
  | .wrote b => .write b
  | .writeFailed b => .write b
  | .delayed n => .delay n

/-- One nibble on the wire when all is well: the byte `w` with the enable line low, high, low again, and the two
holds (R72, with bit 2 of `w` clear). -/
def wireNibble (c : Config) (w : Byte) : List WireEvent :=
  [.wrote w, .wrote (w ||| 0x04), .delayed c.tEnHigh, .wrote w, .delayed c.tEnLow]

/-- One logical byte on the wire when all is well (R74, R78): its high half, then its low half, in the upper four
bits, the register-select bit and the backlight bit below. -/
def wireByte (c : Config) (b : Byte) (registerSelect backlight : Bool) : List WireEvent :=
  let low : Byte := (if registerSelect then 0x01 else 0x00) ||| (if backlight then 0x08 else 0x00)
  wireNibble c ((b &&& 0xF0) ||| low) ++ wireNibble c ((b <<< 4) ||| low)

/-- The first `k` answers are `ok`, and then come the answers `rest`. -/
def oks (k : Nat) (rest : List Answer) : List Answer := List.replicate k .ok ++ rest

/-- The state an operation leaves when it ends with status `st`, after the wire events `tr`, with the answers `rest`
still to come; every field not named here is as in `s`. -/
def State.after (s : State) (tr : List WireEvent) (rest : List Answer) (st : Status) : State :=
  { s with busy := false, cur := none, plan := [], packet := [], txPort := none, delayLeft := 0,
           answers := rest, trace := s.trace ++ tr, responses := s.responses ++ [st], rsp := some st }

/-- A request was refused: a response, and no other change (R122 to R124). -/
def State.refused (s : State) (st : Status) : State :=
  { s with responses := s.responses ++ [st], rsp := some st }

/-- Enable discipline of a list of written bytes (R77): they come in threes, the same byte with the enable bit low,
high and low again. -/
inductive Strobes : List Byte → Prop where
  | nil : Strobes []
  | cycle (w : Byte) (rest : List Byte) : w.getLsbD 2 = false → Strobes rest →
      Strobes (w :: (w ||| 0x04) :: w :: rest)

/-- The invariant of the state: R25, what R19 says of the sequencer's fields, and how the port and the delay counter
belong to the head of the plan. -/
structure State.Inv (s : State) : Prop where
  /-- `lineCount ∈ {0, 1, 2}` (R25). -/
  lineCount : s.lineCount ≠ 3
  /-- READY has a line count (R25). -/
  readyLines : s.phase = .ready → s.lineCount ≠ 0
  /-- `entryMode ≤ 0x03` (R25). -/
  entryMode : s.entryMode.toNat ≤ 0x03
  /-- `displayControl ≤ 0x07` (R25). -/
  displayControl : s.displayControl.toNat ≤ 0x07
  /-- `functionSet & ~0x1C = 0` (R25). -/
  functionSet : s.functionSet &&& ~~~0x1C = 0
  /-- A block that is not busy has nothing in progress (R19, R25). -/
  idle : s.busy = false → s.ended = true
  /-- While a packet is being taken no operation has begun, and the packet is unfinished (R57). -/
  taking : s.packet ≠ [] →
    s.busy = true ∧ s.cur = none ∧ s.plan = [] ∧ s.txPort = none ∧ s.delayLeft = 0 ∧
      decodePacket s.packet = .incomplete
  /-- A busy block that is taking no packet has an operation in progress (R19). -/
  running : s.busy = true → s.packet = [] → s.cur ≠ none
  /-- INIT runs in UNINIT, with the line count it was accepted with (R17, R86). -/
  initRuns : ∀ n, s.cur = some (.init n) → s.phase = .uninit ∧ s.lineCount ≠ 0
  /-- Every other operation runs in READY (R17, R123). -/
  othersRun : ∀ i, s.cur = some i → i.opcode ≠ .init → s.phase = .ready
  /-- The write on the port is the head of the plan (R34). -/
  port : ∀ b, s.txPort = some b → headWrite s.plan = some b
  /-- The delay being counted is the head of the plan (R155). -/
  counting : s.delayLeft ≠ 0 → ∃ n rest, s.plan = .delay n :: rest ∧ s.delayLeft ≤ n

/-- The invariant of the wire: bit 1 of every byte written, on the port or still to be written is 0 (R60), and every
byte still to be written carries the backlight flag (R76). It needs an `INIT_NIBBLE` without the bits 1 to 3, as the
spec's 0x30 is. -/
structure State.WireInv (s : State) : Prop where
  nibble : s.config.initNibble &&& 0x0E = 0
  seen : ∀ e ∈ s.trace, ∀ b, e.byte = some b → b.getLsbD 1 = false
  onPort : ∀ b, s.txPort = some b → b.getLsbD 1 = false
  planned : ∀ b, PlanEvent.write b ∈ s.plan → b.getLsbD 1 = false ∧ b.getLsbD 3 = s.backlight

/-- The states a block with parameters `c` can be in: from reset, by steps, by ticks of the small-step view, and by
moves of the environment (R167). -/
inductive Reachable (c : Config) : State → Prop where
  | reset : Reachable c (State.resetWith c)
  | step (s t : State) : Reachable c s → Machine.step s = .next t → Reachable c t
  | tick (s : State) : Reachable c s → Reachable c (Machine.tick s)
  | host (s : State) (m : HostMove) : Reachable c s → Reachable c (m.apply s)

end Sys2Proof.Machine
end

