-- ==== Sys2Proof/Certificates/Slice0/Obligations.lean ====
section
/-! DEFINITION. The statements for the provers, each from the numbered rules its docstring names. -/

open Sys2Proof Sys2Proof.Machine

/-! ### Encodings -/

/-- R50: a header word selects the row whose `(h & mask) = match`, the six patterns are disjoint, and a header that
matches no row is illegal. -/
def Obligations.OpcodeMapSelectsTheDecodedOperation : Prop :=
  (∀ h : ReqWord, (decodeHeader h).map Header.opcode = (opcodeMap.find? (·.selects h)).map OpcodeRow.opcode) ∧
  ∀ r₁ ∈ opcodeMap, ∀ r₂ ∈ opcodeMap, ∀ h : ReqWord, r₁.selects h → r₂.selects h → r₁ = r₂

/-- R58 and R124: exactly when a header is illegal; and what its one-word packet does when the block takes it, in any
phase: the response IllegalRequest, status code 4, and nothing else. -/
def Obligations.IllegalHeaderIsRefusedAsOneWord : Prop :=
  (∀ h : ReqWord, decodeHeader h = none ↔
    6 ≤ h.toNat / 4096 ∨ h.toNat / 512 % 8 ≠ 0 ∨
    (h.toNat / 256 % 2 = 1 ∧ (h.toNat / 4096 = 0 ∨ h.toNat / 4096 = 1 ∨ h.toNat / 4096 = 4)) ∨
    (h.toNat % 256 ≠ 0 ∧ (h.toNat / 4096 = 4 ∨ h.toNat / 4096 = 5))) ∧
  ∀ (s : State) (h : ReqWord) (ws : List ReqWord), s.rst = false → s.ended = true → s.requests = h :: ws →
    decodeHeader h = none →
    step s = .next { s.refused .illegalRequest with requests := ws } ∧ Status.illegalRequest.code = 4

/-- R55: CLEAR has exactly one encoding. -/
def Obligations.ClearHasOneEncoding : Prop :=
  ∀ ws rest : List ReqWord, decodePacket ws = .packet .clear rest ↔ ws = 0x4000 :: rest

/-- R56: SET_BACKLIGHT has exactly two encodings, one for each value of `ON`. -/
def Obligations.SetBacklightHasTwoEncodings : Prop :=
  ∀ (on : Bool) (ws rest : List ReqWord),
    decodePacket ws = .packet (.setBacklight on) rest ↔ ws = (if on then 0x5100 else 0x5000) :: rest

/-- The examples the encoding rules give, word by word. -/
def Obligations.ExampleWordsDecodeAsTheRulesSay : Prop :=
  decodePacket [0x0002] = .packet (.init 2) [] ∧
  decodePacket [0x100C] = .packet (.writeCommand 0x0C) [] ∧
  decodePacket [0x2141] = .packet (.writeChar 0x41 true) [] ∧
  decodePacket [0x2041] = .packet (.writeChar 0x41 false) [] ∧
  decodePacket [0x3103, 0x0002, 0x0048, 0x0049] = .packet (.displayString true 3 [0x48, 0x49]) [] ∧
  decodePacket [0x30FF, 0x0001, 0x01FF] = .packet (.displayString false 0xFF [0xFF]) [] ∧
  decodePacket [0x4000] = .packet .clear [] ∧
  decodePacket [0x5100] = .packet (.setBacklight true) [] ∧
  decodePacket [0x3200, 0x0000] = .illegal 0x3200 [0x0000]

/-- Decoding the packet of a well-formed instruction gives the instruction back, every operand at every value, and
leaves the words behind the packet alone. -/
def Obligations.DecodeOfEncodeIsTheInstruction : Prop :=
  ∀ (i : Instr) (rest : List ReqWord), i.wf = true → decodePacket (encode i ++ rest) = .packet i rest

/-- A packet that decodes is the encoding of the instruction but for the upper bytes of its character words, which
are ignored (R57). -/
def Obligations.DecodedPacketIsAnEncoding : Prop :=
  ∀ (ws : List ReqWord) (i : Instr) (rest : List ReqWord), decodePacket ws = .packet i rest →
    i.wf = true ∧ ∃ pkt, ws = pkt ++ rest ∧ pkt.take 2 = (encode i).take 2 ∧
      pkt.map charOfWord = (encode i).map charOfWord

/-- R66: the packet of each spelling, and the texts that are no spelling. -/
def Obligations.AssemblerGivesThePacketsOfTheTable : Prop :=
  (∀ n < 256, assemblePacket (.init n) = some [BitVec.ofNat 16 n]) ∧
  (∀ b < 256, assemblePacket (.writeCommand b) = some [BitVec.ofNat 16 (0x1000 + b)]) ∧
  (∀ c < 256, assemblePacket (.writeChar c 1) = some [BitVec.ofNat 16 (0x2100 + c)]) ∧
  (∀ c < 256, assemblePacket (.writeChar c 0) = some [BitVec.ofNat 16 (0x2000 + c)]) ∧
  (∀ (text : List Nat) (line pos : Nat), (∀ c ∈ text, c < 256) → text.length ≤ 65535 → pos < 256 →
    line = 1 ∨ line = 2 →
    assemblePacket (.displayString text line pos) =
      some (BitVec.ofNat 16 (0x3000 + 0x100 * (line - 1) + pos) :: BitVec.ofNat 16 text.length ::
        text.map (BitVec.ofNat 16))) ∧
  assemblePacket .clear = some [0x4000] ∧
  assemblePacket (.setBacklight true) = some [0x5100] ∧ assemblePacket (.setBacklight false) = some [0x5000] ∧
  (∀ (text : List Nat) (line pos : Nat),
    ((line ≠ 1 ∧ line ≠ 2) ∨ 256 ≤ pos ∨ 65535 < text.length ∨ ∃ c ∈ text, 256 ≤ c) →
    assemblePacket (.displayString text line pos) = none) ∧
  (∀ c mode : Nat, ((mode ≠ 0 ∧ mode ≠ 1) ∨ 256 ≤ c) → assemblePacket (.writeChar c mode) = none)

/-- R67: the three pseudo-operations are the full forms with their defaults. -/
def Obligations.PseudoOperationsTakeTheDefaults : Prop :=
  (∀ c, assemblePacket (.writeCharDefault c) = assemblePacket (.writeChar c 1)) ∧
  (∀ text, assemblePacket (.displayStringDefault text) = assemblePacket (.displayString text 1 0)) ∧
  (∀ text line, assemblePacket (.displayStringLine text line) = assemblePacket (.displayString text line 0))

/-! ### The nibble engine and the wire -/

/-- R78: the six bytes of a logical byte, and that they give the byte back. -/
def Obligations.SendByteCanBeDecoded : Prop :=
  ∀ (c : Config) (b : Byte) (m backlight : Bool), ∃ w0 w3 : Byte,
    writesOf (sendByte c b (modeOf m) (blOf backlight)) = [w0, w0 ||| 0x04, w0, w3, w3 ||| 0x04, w3] ∧
    w0 >>> 4 = b >>> 4 ∧ w3 >>> 4 = b &&& 0x0F ∧ b = (w0 &&& 0xF0) ||| (w3 >>> 4) ∧
    w0.getLsbD 0 = m ∧ w3.getLsbD 0 = m ∧
    w0.getLsbD 2 = false ∧ w3.getLsbD 2 = false ∧
    (∀ w ∈ writesOf (sendByte c b (modeOf m) (blOf backlight)), w.getLsbD 3 = backlight ∧ w.getLsbD 1 = false)

/-- R84: the worked examples of the byte sender. -/
def Obligations.SendByteWorkedExamples : Prop :=
  sendByte Config.spec 0xC3 0x00 0x08 =
    [.write 0xC8, .write 0xCC, .delay 5, .write 0xC8, .delay 1,
     .write 0x38, .write 0x3C, .delay 5, .write 0x38, .delay 1] ∧
  sendByte Config.spec 0x48 0x01 0x08 =
    [.write 0x49, .write 0x4D, .delay 5, .write 0x49, .delay 1,
     .write 0x89, .write 0x8D, .delay 5, .write 0x89, .delay 1] ∧
  sendByte Config.spec 0xC3 0x00 0x00 =
    [.write 0xC0, .write 0xC4, .delay 5, .write 0xC0, .delay 1,
     .write 0x30, .write 0x34, .delay 5, .write 0x30, .delay 1] ∧
  sendByte Config.spec 0x48 0x01 0x00 =
    [.write 0x41, .write 0x45, .delay 5, .write 0x41, .delay 1,
     .write 0x81, .write 0x85, .delay 5, .write 0x81, .delay 1]

/-- R60: bit 1 of every byte of every plan is 0 (for an `INIT_NIBBLE` without it, as 0x30 is). -/
def Obligations.BitOneOfEveryPlannedByteIsZero : Prop :=
  ∀ (i : Instr) (s : State), s.config.initNibble.getLsbD 1 = false →
    ∀ b, PlanEvent.write b ∈ (accept i s).plan → b.getLsbD 1 = false

/-- R76: every byte an operation writes, has on the port, or has still to write carries the backlight flag as it
stands from the operation's acceptance on (for an `INIT_NIBBLE` without bit 3, as 0x30 is). -/
def Obligations.BacklightIsMergedIntoEveryByte : Prop :=
  ∀ (i : Instr) (s t : State), s.config.initNibble.getLsbD 3 = false → exec i s = .next t →
    ∃ tr, t.trace = s.trace ++ tr ∧
      (∀ e ∈ tr, ∀ b, e.byte = some b → b.getLsbD 3 = t.backlight) ∧
      (∀ b, t.txPort = some b → b.getLsbD 3 = t.backlight) ∧
      (∀ b, PlanEvent.write b ∈ t.plan → b.getLsbD 3 = t.backlight) ∧
      (accept i s).backlight = t.backlight

/-- R77: enable discipline of every plan: the writes come in threes, enable low, high, low over one unmoving byte;
SET_BACKLIGHT's one byte has the enable bit clear (for an `INIT_NIBBLE` without the enable bit, as 0x30 is). -/
def Obligations.EnableIsPulsedOverOneUnmovingByte : Prop :=
  ∀ (i : Instr) (s : State), s.config.initNibble.getLsbD 2 = false →
    ((∃ on, i = .setBacklight on) → ∀ w ∈ writesOf (accept i s).plan,
      w = (if (accept i s).backlight then 0x08 else 0x00) ∧ w.getLsbD 2 = false) ∧
    ((∀ on, i ≠ .setBacklight on) → Strobes (writesOf (accept i s).plan)) ∧
    (∀ w, (writesOf (accept i s).plan).getLast? = some w → w.getLsbD 2 = false)

/-- R37: how many writes each operation makes when no write fails. -/
def Obligations.WriteCountOfEachOperation : Prop :=
  ∀ s : State,
    (s.cfgValid = true → ∀ n, lineCountOk n = true → (writesOf (accept (.init n) s).plan).length = 36) ∧
    (s.phase = .ready →
      (∀ b, (writesOf (accept (.writeCommand b) s).plan).length = 6) ∧
      (∀ c m, (writesOf (accept (.writeChar c m) s).plan).length = 6) ∧
      (∀ l pos text,
        (writesOf (accept (.displayString l pos text) s).plan).length = 6 + 6 * text.length) ∧
      (writesOf (accept .clear s).plan).length = 12 ∧
      (∀ on, (writesOf (accept (.setBacklight on) s).plan).length = 1))

/-- R168: the delays and the delay total of each operation in ticks, with the spec's parameters, and of one nibble
cycle and one logical byte. -/
def Obligations.DelayTotalOfEachOperation : Prop :=
  (∀ n bl, delaysOf (nibbleCycle Config.spec n bl) = [5, 1] ∧ ticksOf (nibbleCycle Config.spec n bl) = 6 ∧
    (writesOf (nibbleCycle Config.spec n bl)).length = 3) ∧
  (∀ b m bl, delaysOf (sendByte Config.spec b m bl) = [5, 1, 5, 1] ∧
    ticksOf (sendByte Config.spec b m bl) = 12 ∧ (writesOf (sendByte Config.spec b m bl)).length = 6) ∧
  ∀ s : State, s.config = Config.spec →
    (s.cfgValid = true → ∀ n, lineCountOk n = true →
      delaysOf (accept (.init n) s).plan = (List.replicate 12 [5, 1]).flatten ++ [200] ∧
      ticksOf (accept (.init n) s).plan = 272 ∧ (writesOf (accept (.init n) s).plan).length = 36) ∧
    (s.phase = .ready →
      (∀ b, delaysOf (accept (.writeCommand b) s).plan = [5, 1, 5, 1] ∧
        ticksOf (accept (.writeCommand b) s).plan = 12 ∧
        (writesOf (accept (.writeCommand b) s).plan).length = 6) ∧
      (∀ c m, delaysOf (accept (.writeChar c m) s).plan = [5, 1, 5, 1] ∧
        ticksOf (accept (.writeChar c m) s).plan = 12 ∧
        (writesOf (accept (.writeChar c m) s).plan).length = 6) ∧
      (∀ l pos text,
        delaysOf (accept (.displayString l pos text) s).plan =
          (List.replicate (2 + 2 * text.length) [5, 1]).flatten ∧
        ticksOf (accept (.displayString l pos text) s).plan = 12 + 12 * text.length ∧
        (writesOf (accept (.displayString l pos text) s).plan).length = 6 + 6 * text.length) ∧
      (delaysOf (accept .clear s).plan = (List.replicate 4 [5, 1]).flatten ∧
        ticksOf (accept .clear s).plan = 24 ∧ (writesOf (accept .clear s).plan).length = 12) ∧
      (∀ on, delaysOf (accept (.setBacklight on) s).plan = [] ∧
        ticksOf (accept (.setBacklight on) s).plan = 0 ∧
        (writesOf (accept (.setBacklight on) s).plan).length = 1))

/-! ### INIT -/

/-- R90: the plan of INIT event by event, with the spec's parameters and with `BL_INIT = 0`. -/
def Obligations.InitPlanEventByEvent : Prop :=
  let cycle (w : Byte) : List PlanEvent := [.write w, .write (w ||| 0x04), .delay 5, .write w, .delay 1]
  ∀ n : Byte,
    initPlan Config.spec 0x08 n =
      cycle 0x38 ++ cycle 0x38 ++ cycle 0x38 ++ cycle 0x38 ++ cycle 0x28 ++ cycle 0x88 ++ cycle 0x08 ++
      cycle 0xC8 ++ cycle 0x08 ++ cycle 0x18 ++ cycle 0x08 ++ cycle 0x68 ++ [.delay 200] ∧
    initPlan Config.spec 0x00 n =
      cycle 0x30 ++ cycle 0x30 ++ cycle 0x30 ++ cycle 0x30 ++ cycle 0x20 ++ cycle 0x80 ++ cycle 0x00 ++
      cycle 0xC0 ++ cycle 0x00 ++ cycle 0x10 ++ cycle 0x00 ++ cycle 0x60 ++ [.delay 200] ∧
    (initPlan Config.spec 0x08 n).length = 61 ∧ (writesOf (initPlan Config.spec 0x08 n)).length = 36 ∧
    (delaysOf (initPlan Config.spec 0x08 n)).length = 25 ∧ ticksOf (initPlan Config.spec 0x08 n) = 272

/-- R87: the raw phase, at the spec's `INIT_NIBBLE` and at the literal reading 0x03, which a claim can name. -/
def Obligations.RawPhaseIsFourSingleNibbleCycles : Prop :=
  (∀ (c : Config) (bl : Byte), rawPhase c bl =
    nibbleCycle c c.initNibble bl ++ nibbleCycle c c.initNibble bl ++ nibbleCycle c c.initNibble bl ++
      nibbleCycle c c.initNibble bl) ∧
  nibbleCycle Config.spec Config.spec.initNibble 0x08 =
    [.write 0x38, .write 0x3C, .delay 5, .write 0x38, .delay 1] ∧
  (rawPhase { Config.spec with initNibble := 0x03 } 0x08).take 5 =
    [.write 0x0B, .write 0x0F, .delay 5, .write 0x0B, .delay 1]

/-- R91: INIT with every write answered `ok`, with the spec's parameters: the trace of R90, READY, the shadow
registers of R16, the response OK; nothing else changes. -/
def Obligations.InitCompletes : Prop :=
  ∀ (s : State) (n : Byte) (rest : List Answer),
    s.config = Config.spec → s.cfgValid = true → n = 1 ∨ n = 2 → s.answers = oks 36 rest →
    exec (.init n) s = .next
      { s.after
          (wireNibble s.config 0x38 ++ wireNibble s.config 0x38 ++ wireNibble s.config 0x38 ++
            wireNibble s.config 0x38 ++ wireByte s.config 0x28 false true ++ wireByte s.config 0x0C false true ++
            wireByte s.config 0x01 false true ++ wireByte s.config 0x06 false true ++ [.delayed 200])
          rest .ok with
        phase := .ready, backlight := true, lineCount := n.setWidth 2,
        functionSet := 0x08, displayControl := 0x04, entryMode := 0x02 }

/-- INIT with every write answered `ok`, at any parameters whose `INIT_NIBBLE` leaves the enable bit clear. -/
def Obligations.InitCompletesAtAnyParameters : Prop :=
  ∀ (s : State) (n : Byte) (rest : List Answer),
    s.config.initNibble.getLsbD 2 = false → s.cfgValid = true → n = 1 ∨ n = 2 → s.answers = oks 36 rest →
    let bl := s.config.blInit
    exec (.init n) s = .next
      { s.after
          ((List.replicate 4
              (wireNibble s.config (s.config.initNibble ||| (if bl then 0x08 else 0x00)))).flatten ++
            wireByte s.config 0x28 false bl ++ wireByte s.config 0x0C false bl ++
            wireByte s.config 0x01 false bl ++ wireByte s.config 0x06 false bl ++
            [.delayed s.config.tInitSettle])
          rest .ok with
        phase := .ready, backlight := bl, lineCount := n.setWidth 2,
        functionSet := 0x08, displayControl := 0x04, entryMode := 0x02 }

/-- R122: INIT with `cfg_valid = 0` or a line count other than 1 and 2 is answered ConfigurationError, status code 2,
in every phase, and changes nothing else; no other request is answered so. -/
def Obligations.InitRefusesAnInvalidConfiguration : Prop :=
  (∀ (s : State) (n : Byte), s.cfgValid = false ∨ (n ≠ 1 ∧ n ≠ 2) →
    exec (.init n) s = .next (s.after [] s.answers .configurationError)) ∧
  Status.configurationError.code = 2 ∧
  ∀ (i : Instr) (s t : State), s.rsp = none → exec i s = .next t → t.rsp = some .configurationError →
    ∃ n, i = .init n ∧ (s.cfgValid = false ∨ (n ≠ 1 ∧ n ≠ 2))

/-- R92: INIT whose write `k + 1` is answered `fail`: the events before that write, the failed write, nothing after
it; FAILED, cleared shadow registers, the new line count, the response TransportError. And in FAILED every request but
INIT is refused without a transport write. -/
def Obligations.InitFailsAtAnyWrite : Prop :=
  (∀ (s : State) (n : Byte) (k : Nat) (rest : List Answer),
    s.cfgValid = true → n = 1 ∨ n = 2 → k < 36 → s.answers = oks k (.fail :: rest) →
    exec (.init n) s = .next
      { s.after (cutAt (initPlan s.config (blOf s.config.blInit) n) k) rest .transportError with
        phase := .failed, backlight := s.config.blInit, lineCount := n.setWidth 2,
        functionSet := 0, displayControl := 0, entryMode := 0 }) ∧
  ∀ (i : Instr) (s : State), s.phase = .failed → i.opcode ≠ .init →
    exec i s = .next (s.after [] s.answers .notUsable)

/-- R129: an accepted INIT restores nothing: what it does depends on no part of the display state before it. -/
def Obligations.InitForgetsTheDisplayState : Prop :=
  ∀ (s : State) (n : Byte) (p : Phase) (bl : Bool) (lc : BitVec 2) (e d f : Byte),
    s.cfgValid = true → n = 1 ∨ n = 2 →
    exec (.init n) { s with phase := p, backlight := bl, lineCount := lc, entryMode := e, displayControl := d,
                            functionSet := f } = exec (.init n) s

/-! ### The byte operations -/

/-- R95 with R15: WRITE_COMMAND with its six writes answered `ok`: the byte on the wire as control byte, and at most
one shadow register takes its flags; nothing else changes. -/
def Obligations.WriteCommandCompletes : Prop :=
  ∀ (s : State) (b : Byte) (rest : List Answer), s.phase = .ready → s.answers = oks 6 rest →
    exec (.writeCommand b) s = .next
      { s.after (wireByte s.config b false s.backlight) rest .ok with
        entryMode := if 0x04 ≤ b.toNat ∧ b.toNat < 0x08 then b &&& 0x03 else s.entryMode,
        displayControl := if 0x08 ≤ b.toNat ∧ b.toNat < 0x10 then b &&& 0x07 else s.displayControl,
        functionSet := if 0x20 ≤ b.toNat ∧ b.toNat < 0x40 then b &&& 0x1C else s.functionSet }

/-- R98: WRITE_CHAR with its six writes answered `ok`: the code on the wire with register-select `M`; with `M = 1`
no register changes, with `M = 0` the shadow registers as for a control byte; nothing else changes. -/
def Obligations.WriteCharCompletes : Prop :=
  ∀ (s : State) (c : Byte) (m : Bool) (rest : List Answer), s.phase = .ready → s.answers = oks 6 rest →
    exec (.writeChar c m) s = .next
      { s.after (wireByte s.config c m s.backlight) rest .ok with
        entryMode := if m = false ∧ 0x04 ≤ c.toNat ∧ c.toNat < 0x08 then c &&& 0x03 else s.entryMode,
        displayControl := if m = false ∧ 0x08 ≤ c.toNat ∧ c.toNat < 0x10 then c &&& 0x07 else s.displayControl,
        functionSet := if m = false ∧ 0x20 ≤ c.toNat ∧ c.toNat < 0x40 then c &&& 0x1C else s.functionSet }

/-- R100: WRITE_CHAR with `M = 0` is, on the wire and in its commit, WRITE_COMMAND: the two leave states that differ
at most in which of the two operations is recorded as in progress. -/
def Obligations.WriteCharWithModeZeroIsWriteCommand : Prop :=
  ∀ (s : State) (c : Byte), ∃ t u : State, exec (.writeChar c false) s = .next t ∧
    exec (.writeCommand c) s = .next u ∧ { t with cur := none } = { u with cur := none } ∧
    (t.cur = none ↔ u.cur = none)

/-- R99: every byte written for a character, the enable-high and enable-low ones too, has the register-select bit
set, and every byte written for a control byte has it clear. -/
def Obligations.RegisterSelectIsInEveryByteOfACharacter : Prop :=
  ∀ (s : State) (c : Byte), s.phase = .ready →
    (∀ w ∈ writesOf (accept (.writeChar c true) s).plan, w.getLsbD 0 = true) ∧
    (∀ w ∈ writesOf (accept (.writeCommand c) s).plan, w.getLsbD 0 = false) ∧
    (s.backlight = true → writesOf (accept (.writeChar 0x41 true) s).plan =
      [0x49, 0x4D, 0x49, 0x19, 0x1D, 0x19])

/-- V7 of the test vectors, from R15: the shadow registers over all byte values, as classes. -/
def Obligations.ShadowUpdateByByteClass : Prop :=
  ∀ (s : State) (b : Byte),
    (b.toNat < 0x04 → shadowUpdate s b = s) ∧
    (0x04 ≤ b.toNat → b.toNat < 0x08 →
      shadowUpdate s b = { s with entryMode := BitVec.ofNat 8 (b.toNat - 0x04) }) ∧
    (0x08 ≤ b.toNat → b.toNat < 0x10 →
      shadowUpdate s b = { s with displayControl := BitVec.ofNat 8 (b.toNat - 0x08) }) ∧
    (0x10 ≤ b.toNat → b.toNat < 0x20 → shadowUpdate s b = s) ∧
    (0x20 ≤ b.toNat → b.toNat < 0x40 →
      shadowUpdate s b = { s with functionSet := BitVec.ofNat 8 ((b.toNat - 0x20) / 4 * 4) }) ∧
    (0x40 ≤ b.toNat → shadowUpdate s b = s)

/-! ### The composite operations -/

/-- R106: the addressing command of a line and column, and the rows of its table. -/
def Obligations.AddressingCommandOfLineAndColumn : Prop :=
  (∀ (l : Bool) (pos : Byte), addressCommand l pos =
    0x80#8 ||| BitVec.ofNat 8 ((pos.toNat + if l then 0x40 else 0) % 256)) ∧
  addressCommand false 0x00 = 0x80 ∧ addressCommand false 0x0F = 0x8F ∧ addressCommand false 0x13 = 0x93 ∧
  addressCommand true 0x00 = 0xC0 ∧ addressCommand true 0x03 = 0xC3 ∧ addressCommand false 0x40 = 0xC0 ∧
  addressCommand false 0x80 = 0x80 ∧ addressCommand true 0x40 = 0x80 ∧ addressCommand true 0xC0 = 0x80 ∧
  addressCommand true 0xFF = 0xBF ∧ addressCommand false 0xFF = 0xFF

/-- R105: DISPLAY_STRING with its writes answered `ok`: the addressing command as control byte, then each character
with register-select 1, in text order; the state as before. -/
def Obligations.DisplayStringCompletes : Prop :=
  ∀ (s : State) (l : Bool) (pos : Byte) (text : List Byte) (rest : List Answer),
    s.phase = .ready → s.answers = oks (6 + 6 * text.length) rest →
    exec (.displayString l pos text) s = .next
      (s.after
        (wireByte s.config (0x80#8 ||| BitVec.ofNat 8 ((pos.toNat + if l then 0x40 else 0) % 256)) false
            s.backlight ++
          (text.map fun c => wireByte s.config c true s.backlight).flatten)
        rest .ok)

/-- R108: when no write fails, DISPLAY_STRING has the trace, and but for the responses the end state, of WRITE_COMMAND
of its addressing command followed by one WRITE_CHAR with `M = 1` for each character. -/
def Obligations.DisplayStringIsACommandThenCharacters : Prop :=
  ∀ (s : State) (l : Bool) (pos : Byte) (text : List Byte) (rest : List Answer),
    s.phase = .ready → s.answers = oks (6 + 6 * text.length) rest →
    ∃ t u : State, exec (.displayString l pos text) s = .next t ∧
      runOps (.writeCommand (addressCommand l pos) :: text.map fun c => .writeChar c true) s = some u ∧
      u = { t with responses := s.responses ++ List.replicate (1 + text.length) .ok } ∧ t.trace = u.trace

/-- R110 and R111: CLEAR with its twelve writes answered `ok`: the control bytes 0x01, then 0x02; the state as
before. -/
def Obligations.ClearCompletes : Prop :=
  ∀ (s : State) (rest : List Answer), s.phase = .ready → s.answers = oks 12 rest →
    exec .clear s = .next
      (s.after (wireByte s.config 0x01 false s.backlight ++ wireByte s.config 0x02 false s.backlight) rest .ok)

/-! ### SET_BACKLIGHT -/

/-- R116: SET_BACKLIGHT writes the flag, then the backlight bit alone to the transport; when that write fails the
flag keeps its new value and the block is FAILED. -/
def Obligations.SetBacklightCompletesOrFails : Prop :=
  ∀ (s : State) (on : Bool) (rest : List Answer), s.phase = .ready →
    (s.answers = .ok :: rest →
      exec (.setBacklight on) s = .next
        { s.after [.wrote (if on then 0x08 else 0x00)] rest .ok with backlight := on }) ∧
    (s.answers = .fail :: rest →
      exec (.setBacklight on) s = .next
        { s.after [.writeFailed (if on then 0x08 else 0x00)] rest .transportError with
          backlight := on, phase := .failed })

/-- R118: `setBacklight(false)` then `setBacklight(true)`, and a `writeChar(0x41)` between them. -/
def Obligations.BacklightOffThenOn : Prop :=
  ∀ (s : State) (rest : List Answer), s.phase = .ready → s.config = Config.spec → s.answers = oks 8 rest →
    ∃ u v w : State, exec (.setBacklight false) s = .next u ∧ u.trace = s.trace ++ [.wrote 0x00] ∧
      u.backlight = false ∧ u.rsp = some .ok ∧
      exec (.writeChar 0x41 true) u = .next v ∧
      v.trace = u.trace ++ [.wrote 0x41, .wrote 0x45, .delayed 5, .wrote 0x41, .delayed 1,
        .wrote 0x11, .wrote 0x15, .delayed 5, .wrote 0x11, .delayed 1] ∧
      exec (.setBacklight true) v = .next w ∧ w.trace = v.trace ++ [.wrote 0x08] ∧
      w.backlight = true ∧ w.rsp = some .ok

/-! ### Failures, refusals, lifecycle -/

/-- R80 and R127: an accepted operation whose write `k + 1` is answered `fail`, whatever the operation: the events
before that write, the failed write and nothing after it; FAILED; no commit, and the acceptance-time writes stand.
The same for an operation that was waiting and goes on in a later step. -/
def Obligations.FailedWriteAbortsTheOperation : Prop :=
  (∀ (i : Instr) (s : State) (k : Nat) (rest : List Answer),
    (accept i s).busy = true → k < (writesOf (accept i s).plan).length → s.answers = oks k (.fail :: rest) →
    exec i s = .next
      { (accept i s).after (cutAt (accept i s).plan k) rest .transportError with phase := .failed }) ∧
  (∀ (i : Instr) (s : State) (k : Nat) (rest : List Answer),
    s.rst = false → s.busy = true → s.packet = [] → s.cur = some i → k < (writesOf s.plan).length →
    s.answers = oks k (.fail :: rest) →
    step s = .next { s.after (cutAt s.plan k) rest .transportError with phase := .failed })

/-- What acceptance does, by R126, in every state: the refusals in their order, the acceptance-time writes of INIT
(R86) and of SET_BACKLIGHT (R116), and no other change but taking the operation. A state in which the words of a packet
were being taken, or any other, leaves nothing of its own in the sequencer's fields. -/
def Obligations.AcceptanceChecksAndWrites : Prop :=
  ∀ (i : Instr) (s : State),
    (i.opcode ≠ .init → s.phase ≠ .ready → accept i s = s.after [] s.answers .notUsable) ∧
    (∀ n, i = .init n → s.cfgValid = false ∨ (n ≠ 1 ∧ n ≠ 2) →
      accept i s = s.after [] s.answers .configurationError) ∧
    (∀ n, i = .init n → s.cfgValid = true → n = 1 ∨ n = 2 →
      ∃ p, accept i s = { s with phase := .uninit, backlight := s.config.blInit, lineCount := n.setWidth 2,
                                 entryMode := 0, displayControl := 0, functionSet := 0,
                                 busy := true, cur := some i, plan := p,
                                 packet := [], txPort := none, delayLeft := 0 } ∧ p ≠ []) ∧
    (∀ on, i = .setBacklight on → s.phase = .ready →
      accept i s = { s with backlight := on, busy := true, cur := some i,
                            plan := [.write (if on then 0x08 else 0x00)],
                            packet := [], txPort := none, delayLeft := 0 }) ∧
    (i.opcode ≠ .init → i.opcode ≠ .setBacklight → s.phase = .ready →
      ∃ p, accept i s = { s with busy := true, cur := some i, plan := p,
                                 packet := [], txPort := none, delayLeft := 0 } ∧ p ≠ [])

/-- R123: a legal request other than INIT taken while the phase is not READY: the response NotUsable, status code 3,
all words of its packet consumed, no other change; no other request is answered so. The packet may have begun in an
earlier step (R57): `State.after` with no event leaves the sequencer idle and every other field as it was. -/
def Obligations.NotUsableOutsideReady : Prop :=
  (∀ (s : State) (i : Instr) (rest : List ReqWord), s.rst = false → (s.busy = false ∨ s.packet ≠ []) →
    s.phase ≠ .ready → i.opcode ≠ .init → decodePacket (s.packet ++ s.requests) = .packet i rest →
    step s = .next { s.after [] s.answers .notUsable with requests := rest }) ∧
  Status.notUsable.code = 3 ∧
  ∀ (i : Instr) (s t : State), s.rsp = none → exec i s = .next t → t.rsp = some .notUsable →
    i.opcode ≠ .init ∧ s.phase ≠ .ready

/-- R125: the statuses an operation can end with, and the ones it never ends with. -/
def Obligations.StatusesOfEachOperation : Prop :=
  ∀ (i : Instr) (s t : State), s.rsp = none → exec i s = .next t →
    (∀ st, t.rsp = some st →
      (i.opcode = .init → st = .ok ∨ st = .transportError ∨ st = .configurationError) ∧
      (i.opcode ≠ .init → st = .ok ∨ st = .transportError ∨ st = .notUsable)) ∧
    (t.rsp = some .ok → t.phase = .ready) ∧ (t.rsp = some .transportError → t.phase = .failed) ∧
    (t.rsp = some .notUsable → s.phase ≠ .ready ∧ t.phase = s.phase ∧ t.trace = s.trace) ∧
    (t.rsp = some .configurationError → t.phase = s.phase ∧ t.trace = s.trace)

/-- R120: an operation that ends presents exactly one response; one that has not ended has presented none. -/
def Obligations.OneResponsePerOperation : Prop :=
  (∀ (i : Instr) (s t : State), exec i s = .next t →
    (t.ended = true ∧ ∃ st, t.responses = s.responses ++ [st] ∧ t.rsp = some st) ∨
    (t.busy = true ∧ t.cur = some i ∧ t.responses = s.responses ∧ t.rsp = s.rsp ∧ t.answers = [] ∧
      ∃ b, t.txPort = some b ∧ headWrite t.plan = some b)) ∧
  (∀ (i : Instr) (s t : State), s.rst = false → s.busy = true → s.packet = [] → s.cur = some i →
    step s = .next t →
    (t.ended = true ∧ ∃ st, t.responses = s.responses ++ [st] ∧ t.rsp = some st) ∨
    (t.busy = true ∧ t.cur = some i ∧ t.responses = s.responses ∧ t.rsp = none ∧ t.answers = [] ∧
      ∃ b, t.txPort = some b ∧ headWrite t.plan = some b))

/-- R40 and R128: what an operation does on the wire is its plan from the front, in order, each write attempted once
at most; a failed write is the last event and leaves FAILED. -/
def Obligations.TraceIsThePlanFromTheFront : Prop :=
  ∀ (i : Instr) (s t : State), exec i s = .next t →
    ∃ tr, t.trace = s.trace ++ tr ∧ tr.map WireEvent.planned <+: (accept i s).plan ∧
      (∀ before b later, tr = before ++ .writeFailed b :: later →
        later = [] ∧ t.phase = .failed ∧ t.rsp = some .transportError) ∧
      (t.busy = true → tr.map WireEvent.planned ++ t.plan = (accept i s).plan)

/-- R17: the transitions of the phase over one step of a state that meets the invariant: none but the table's. -/
def Obligations.PhaseTransitionsOfAStep : Prop :=
  ∀ s t : State, s.Inv → step s = .next t →
    (s.rst = true ∧ t.phase = .uninit) ∨
    t.phase = s.phase ∨
    (s.phase = .ready ∧ t.phase = .failed ∧ t.rsp = some .transportError) ∨
    (((∃ n, s.cur = some (.init n)) ∨
        ∃ n rest, s.busy = false ∧ decodePacket (s.packet ++ s.requests) = .packet (.init n) rest ∧
          s.cfgValid = true ∧ (n = 1 ∨ n = 2)) ∧
      ((t.phase = .uninit ∧ t.busy = true) ∨ (t.phase = .ready ∧ t.rsp = some .ok) ∨
        (t.phase = .failed ∧ t.rsp = some .transportError)))

/-- R18: FAILED is left only by an accepted INIT or by reset, and in FAILED the block makes no transport write. -/
def Obligations.FailedIsLeftOnlyByInitOrReset : Prop :=
  ∀ s t : State, s.Inv → s.phase = .failed → step s = .next t → (t.phase ≠ .failed ∨ t.trace ≠ s.trace) →
    s.rst = true ∨
    ∃ n rest, s.busy = false ∧ decodePacket (s.packet ++ s.requests) = .packet (.init n) rest ∧
      s.cfgValid = true ∧ (n = 1 ∨ n = 2)

/-- R41 and R169: in a run each operation ends before the next begins; the trace of the run is the concatenation of
the operations' traces in order, and its result is one status for each. First for a run of request packets, illegal
headers among them, each with its own `cfg_valid`; then for operations executed without the channel. Trace `j` and
status `j` are what giving packet `j` (executing operation `j`) adds to the state the first `j` of them end in. -/
def Obligations.RunIsItsOperationsInOrder : Prop :=
  (∀ (rs : List Request) (s t : State), runRequests rs s = some t →
    ∃ (traces : List (List WireEvent)) (statuses : List Status),
      traces.length = rs.length ∧ statuses.length = rs.length ∧
      t.trace = s.trace ++ traces.flatten ∧ t.responses = s.responses ++ statuses ∧ s.ended = true ∧ t.ended = true ∧
      (rs ≠ [] → t.rsp = statuses.getLast?) ∧
      ∀ j r, rs[j]? = some r →
        ∃ (u v : State) (tr : List WireEvent) (st : Status), runRequests (rs.take j) s = some u ∧
          u.ended = true ∧ u.rst = false ∧ step (r.present u) = .next v ∧ v.ended = true ∧
          runRequests (rs.take (j + 1)) s = some v ∧ traces[j]? = some tr ∧ statuses[j]? = some st ∧
          v.trace = u.trace ++ tr ∧ v.responses = u.responses ++ [st] ∧ v.rsp = some st) ∧
  ∀ (ops : List Instr) (s t : State), runOps ops s = some t →
    ∃ (traces : List (List WireEvent)) (statuses : List Status),
      traces.length = ops.length ∧ statuses.length = ops.length ∧
      t.trace = s.trace ++ traces.flatten ∧ t.responses = s.responses ++ statuses ∧
      (ops ≠ [] → t.ended = true ∧ t.rsp = statuses.getLast?) ∧
      ∀ j i, ops[j]? = some i →
        ∃ (u v : State) (tr : List WireEvent) (st : Status), runOps (ops.take j) s = some u ∧
          exec i u = .next v ∧ v.ended = true ∧ runOps (ops.take (j + 1)) s = some v ∧
          traces[j]? = some tr ∧ statuses[j]? = some st ∧
          v.trace = u.trace ++ tr ∧ v.responses = u.responses ++ [st] ∧ v.rsp = some st

/-! ### Reset -/

/-- R27: the reset values, with the spec's parameters. -/
def Obligations.ResetValues : Prop :=
  State.reset.phase = .uninit ∧ State.reset.backlight = true ∧ State.reset.lineCount = 0 ∧
  State.reset.entryMode = 0x00 ∧ State.reset.displayControl = 0x00 ∧ State.reset.functionSet = 0x00 ∧
  State.reset.busy = false ∧ State.reset.cur = none ∧ State.reset.plan = [] ∧ State.reset.trace = []

/-- R145 and R147: in a cycle with `rst = 1` the state takes its reset values, the ports are driven 0, the operation
in progress is abandoned without a response, and a write outstanding on the port may or may not have reached the
expander (a free value: the statement allows both). -/
def Obligations.ResetAbandonsTheOperation : Prop :=
  ∀ s : State, s.rst = true → ∃ (t : State) (tr : List WireEvent), step s = .next t ∧
    t.phase = .uninit ∧ t.backlight = s.config.blInit ∧ t.lineCount = 0 ∧
    t.entryMode = 0 ∧ t.displayControl = 0 ∧ t.functionSet = 0 ∧ t.ended = true ∧
    t.outputs.tx = none ∧ t.outputs.reqReady = false ∧ t.outputs.rsp = none ∧ t.rsp = none ∧
    t.responses = s.responses ∧ t.trace = s.trace ++ tr ∧
    (s.txPort = none → tr = []) ∧ (∀ b, s.txPort = some b → tr = [] ∨ tr = [.wrote b])

/-! ### The step -/

/-- A step runs the decoded instruction: out of reset, with no operation running, when the words taken so far and the
words on the channel hold a whole packet, the step is `exec` of its instruction at the state whose channel is past
the packet's words (and whose response port is empty again). -/
def Obligations.StepRunsTheDecodedInstruction : Prop :=
  ∀ (s : State) (i : Instr) (rest : List ReqWord), s.rst = false → (s.busy = false ∨ s.packet ≠ []) →
    decodePacket (s.packet ++ s.requests) = .packet i rest →
    step s = exec i { s with packet := [], requests := rest, rsp := none }

/-- R57 and R160: while the words of a packet are still to come the block takes the words there are, keeps `busy`,
writes nothing and answers nothing. That no event of the plan is performed before the last word is the model's
choice (log entry 6); the rest is the rules'. -/
def Obligations.UnfinishedPacketWaits : Prop :=
  ∀ s : State, s.rst = false → (s.busy = false ∨ s.packet ≠ []) → s.packet ++ s.requests ≠ [] →
    (s.busy = false → s.packet = []) →
    decodePacket (s.packet ++ s.requests) = .incomplete →
    step s = .next { s with busy := true, packet := s.packet ++ s.requests, requests := [], rsp := none }

/-- R47: while an operation runs `req_ready` is 0 and a step takes no word of the request channel. -/
def Obligations.NoRequestIsTakenWhileAnOperationRuns : Prop :=
  ∀ s t : State, s.busy = true → s.packet = [] →
    s.outputs.reqReady = false ∧ (step s = .next t → t.requests = s.requests)

/-- R160: an operation whose next write the transport does not answer stays where it is, busy, its write on the
port, and gives no response. -/
def Obligations.SilentTransportLeavesTheOperationWaiting : Prop :=
  ∀ (s : State) (b : Byte) (p : List PlanEvent) (i : Instr), s.rst = false → s.busy = true → s.packet = [] →
    s.cur = some i → s.plan = .write b :: p → s.answers = [] →
    step s = .next { s with txPort := some b, delayLeft := 0, rsp := none }

/-- R169: after the end of a run the block waits for the next header: an idle step changes nothing but the response
port. -/
def Obligations.IdleBlockWaitsForAHeader : Prop :=
  ∀ s : State, s.rst = false → s.ended = true → s.requests = [] → step s = .next { s with rsp := none }

/-- Interrupting an operation by silence changes nothing: when the answers come in two parts and the operation waits
between them, the step that resumes it ends where the operation would have ended with all the answers at once. -/
def Obligations.ResumedOperationEndsAsAnUninterruptedOne : Prop :=
  ∀ (i : Instr) (s u : State) (early late : List Answer), s.rst = false → s.rsp = none →
    exec i { s with answers := early } = .next u → u.busy = true →
    step { u with answers := late } = exec i { s with answers := early ++ late }

/-- R82: a step of the big-step view is a run of ticks of the small-step view: same trace, same state, same
status. -/
def Obligations.StepIsARunOfTicks : Prop :=
  ∀ s t : State, s.Inv → s.rst = false → step s = .next t → ∃ n, 0 < n ∧ ticks n s = t

/-! ### Invariants and frames -/

/-- The state after reset meets the invariant, whatever the parameters. -/
def Obligations.ResetMeetsTheInvariant : Prop := ∀ c : Config, (State.resetWith c).Inv

/-- R25: every step keeps the invariant, and so does every tick of the small-step view and every move of the
environment. -/
def Obligations.StepKeepsTheInvariant : Prop :=
  (∀ s t : State, s.Inv → step s = .next t → t.Inv) ∧ (∀ s : State, s.Inv → (tick s).Inv) ∧
  ∀ (s : State) (m : HostMove), s.Inv → (m.apply s).Inv

/-- R25: the invariant holds at every moment: in every state that steps, ticks and moves of the environment reach
from reset. -/
def Obligations.ReachableStatesMeetTheInvariant : Prop := ∀ (c : Config) (s : State), Reachable c s → s.Inv

/-- A state that meets the invariant always has a next state: the block never halts. -/
def Obligations.StepNeverStops : Prop := ∀ s : State, s.Inv → ∃ t, step s = .next t

/-- R60 and R76 as an invariant of the machine: with an `INIT_NIBBLE` whose bits 1 to 3 are clear, every byte ever
written, on the port or still to be written has bit 1 clear, and every byte still to be written carries the backlight
flag. -/
def Obligations.StepKeepsTheWireInvariant : Prop :=
  ∀ s t : State, s.WireInv → step s = .next t → t.WireInv

/-- The state after reset meets the wire invariant with the spec's parameters. -/
def Obligations.ResetMeetsTheWireInvariant : Prop := State.reset.WireInv

/-- The frame of every operation: what it leaves unchanged when it gives a next state. -/
def Obligations.FrameOfEveryOperation : Prop :=
  ∀ (i : Instr) (s t : State), exec i s = .next t →
    t.config = s.config ∧ t.rst = s.rst ∧ t.cfgValid = s.cfgValid ∧ t.requests = s.requests ∧
    t.freeCount = s.freeCount ∧ (∃ used, s.answers = used ++ t.answers) ∧ (∃ tr, t.trace = s.trace ++ tr) ∧
    (i.opcode ≠ .init → t.lineCount = s.lineCount) ∧
    (i.opcode ≠ .init → i.opcode ≠ .setBacklight → t.backlight = s.backlight) ∧
    (i.opcode ≠ .init → i.opcode ≠ .writeCommand → i.opcode ≠ .writeChar →
      t.entryMode = s.entryMode ∧ t.displayControl = s.displayControl ∧ t.functionSet = s.functionSet) ∧
    (∀ c, i = .writeChar c true →
      t.entryMode = s.entryMode ∧ t.displayControl = s.displayControl ∧ t.functionSet = s.functionSet) ∧
    (i.opcode ≠ .init → t.rsp ≠ some .ok ∨ t.busy = true →
      t.entryMode = s.entryMode ∧ t.displayControl = s.displayControl ∧ t.functionSet = s.functionSet) ∧
    (i.opcode ≠ .init → t.phase = s.phase ∨ (s.phase = .ready ∧ t.phase = .failed))

/-- R24: the status outputs show the registers whole in every state that meets the invariant: padded with zeros they
are the registers again. -/
def Obligations.StatusOutputsShowTheRegisters : Prop :=
  ∀ s : State, s.Inv →
    s.outputs.entryMode.setWidth 8 = s.entryMode ∧ s.outputs.displayControl.setWidth 8 = s.displayControl ∧
    (s.outputs.functionSet.setWidth 8) <<< 2 = s.functionSet ∧
    s.outputs.lineCount = s.lineCount ∧ (s.outputs.backlight = 1 ↔ s.backlight = true) ∧
    (s.outputs.busy = 1 ↔ s.busy = true) ∧ s.outputs.phase ≠ 3 ∧
    (s.outputs.phase = 0 ↔ s.phase = .uninit) ∧ (s.outputs.phase = 1 ↔ s.phase = .ready) ∧
    (s.outputs.phase = 2 ↔ s.phase = .failed)
end

