-- ==== Sys2Proof/Laws/State.lean ====
section
/-! SUPPORT. One lemma for each field of the state and each update of it, so that no later proof unfolds a record
update. -/

namespace Sys2Proof.Machine

@[simp] theorem State.clearRsp_phase (s : State) :
    s.clearRsp.phase = s.phase := rfl
@[simp] theorem State.clearRsp_backlight (s : State) :
    s.clearRsp.backlight = s.backlight := rfl
@[simp] theorem State.clearRsp_lineCount (s : State) :
    s.clearRsp.lineCount = s.lineCount := rfl
@[simp] theorem State.clearRsp_entryMode (s : State) :
    s.clearRsp.entryMode = s.entryMode := rfl
@[simp] theorem State.clearRsp_displayControl (s : State) :
    s.clearRsp.displayControl = s.displayControl := rfl
@[simp] theorem State.clearRsp_functionSet (s : State) :
    s.clearRsp.functionSet = s.functionSet := rfl
@[simp] theorem State.clearRsp_busy (s : State) :
    s.clearRsp.busy = s.busy := rfl
@[simp] theorem State.clearRsp_cur (s : State) :
    s.clearRsp.cur = s.cur := rfl
@[simp] theorem State.clearRsp_plan (s : State) :
    s.clearRsp.plan = s.plan := rfl
@[simp] theorem State.clearRsp_packet (s : State) :
    s.clearRsp.packet = s.packet := rfl
@[simp] theorem State.clearRsp_txPort (s : State) :
    s.clearRsp.txPort = s.txPort := rfl
@[simp] theorem State.clearRsp_delayLeft (s : State) :
    s.clearRsp.delayLeft = s.delayLeft := rfl
@[simp] theorem State.clearRsp_rsp (s : State) :
    s.clearRsp.rsp = none := rfl
@[simp] theorem State.clearRsp_config (s : State) :
    s.clearRsp.config = s.config := rfl
@[simp] theorem State.clearRsp_rst (s : State) :
    s.clearRsp.rst = s.rst := rfl
@[simp] theorem State.clearRsp_cfgValid (s : State) :
    s.clearRsp.cfgValid = s.cfgValid := rfl
@[simp] theorem State.clearRsp_requests (s : State) :
    s.clearRsp.requests = s.requests := rfl
@[simp] theorem State.clearRsp_answers (s : State) :
    s.clearRsp.answers = s.answers := rfl
@[simp] theorem State.clearRsp_trace (s : State) :
    s.clearRsp.trace = s.trace := rfl
@[simp] theorem State.clearRsp_responses (s : State) :
    s.clearRsp.responses = s.responses := rfl
@[simp] theorem State.clearRsp_freeCount (s : State) :
    s.clearRsp.freeCount = s.freeCount := rfl

@[simp] theorem respond_phase (st : Status) (s : State) :
    (respond st s).phase = s.phase := rfl
@[simp] theorem respond_backlight (st : Status) (s : State) :
    (respond st s).backlight = s.backlight := rfl
@[simp] theorem respond_lineCount (st : Status) (s : State) :
    (respond st s).lineCount = s.lineCount := rfl
@[simp] theorem respond_entryMode (st : Status) (s : State) :
    (respond st s).entryMode = s.entryMode := rfl
@[simp] theorem respond_displayControl (st : Status) (s : State) :
    (respond st s).displayControl = s.displayControl := rfl
@[simp] theorem respond_functionSet (st : Status) (s : State) :
    (respond st s).functionSet = s.functionSet := rfl
@[simp] theorem respond_busy (st : Status) (s : State) :
    (respond st s).busy = false := rfl
@[simp] theorem respond_cur (st : Status) (s : State) :
    (respond st s).cur = none := rfl
@[simp] theorem respond_plan (st : Status) (s : State) :
    (respond st s).plan = [] := rfl
@[simp] theorem respond_packet (st : Status) (s : State) :
    (respond st s).packet = [] := rfl
@[simp] theorem respond_txPort (st : Status) (s : State) :
    (respond st s).txPort = none := rfl
@[simp] theorem respond_delayLeft (st : Status) (s : State) :
    (respond st s).delayLeft = 0 := rfl
@[simp] theorem respond_rsp (st : Status) (s : State) :
    (respond st s).rsp = some st := rfl
@[simp] theorem respond_config (st : Status) (s : State) :
    (respond st s).config = s.config := rfl
@[simp] theorem respond_rst (st : Status) (s : State) :
    (respond st s).rst = s.rst := rfl
@[simp] theorem respond_cfgValid (st : Status) (s : State) :
    (respond st s).cfgValid = s.cfgValid := rfl
@[simp] theorem respond_requests (st : Status) (s : State) :
    (respond st s).requests = s.requests := rfl
@[simp] theorem respond_answers (st : Status) (s : State) :
    (respond st s).answers = s.answers := rfl
@[simp] theorem respond_trace (st : Status) (s : State) :
    (respond st s).trace = s.trace := rfl
@[simp] theorem respond_responses (st : Status) (s : State) :
    (respond st s).responses = s.responses ++ [st] := rfl
@[simp] theorem respond_freeCount (st : Status) (s : State) :
    (respond st s).freeCount = s.freeCount := rfl

@[simp] theorem startOp_phase (op : Instr) (p : List PlanEvent) (s : State) :
    (startOp op p s).phase = s.phase := rfl
@[simp] theorem startOp_backlight (op : Instr) (p : List PlanEvent) (s : State) :
    (startOp op p s).backlight = s.backlight := rfl
@[simp] theorem startOp_lineCount (op : Instr) (p : List PlanEvent) (s : State) :
    (startOp op p s).lineCount = s.lineCount := rfl
@[simp] theorem startOp_entryMode (op : Instr) (p : List PlanEvent) (s : State) :
    (startOp op p s).entryMode = s.entryMode := rfl
@[simp] theorem startOp_displayControl (op : Instr) (p : List PlanEvent) (s : State) :
    (startOp op p s).displayControl = s.displayControl := rfl
@[simp] theorem startOp_functionSet (op : Instr) (p : List PlanEvent) (s : State) :
    (startOp op p s).functionSet = s.functionSet := rfl
@[simp] theorem startOp_busy (op : Instr) (p : List PlanEvent) (s : State) :
    (startOp op p s).busy = true := rfl
@[simp] theorem startOp_cur (op : Instr) (p : List PlanEvent) (s : State) :
    (startOp op p s).cur = some op := rfl
@[simp] theorem startOp_plan (op : Instr) (p : List PlanEvent) (s : State) :
    (startOp op p s).plan = p := rfl
@[simp] theorem startOp_packet (op : Instr) (p : List PlanEvent) (s : State) :
    (startOp op p s).packet = [] := rfl
@[simp] theorem startOp_txPort (op : Instr) (p : List PlanEvent) (s : State) :
    (startOp op p s).txPort = none := rfl
@[simp] theorem startOp_delayLeft (op : Instr) (p : List PlanEvent) (s : State) :
    (startOp op p s).delayLeft = 0 := rfl
@[simp] theorem startOp_rsp (op : Instr) (p : List PlanEvent) (s : State) :
    (startOp op p s).rsp = s.rsp := rfl
@[simp] theorem startOp_config (op : Instr) (p : List PlanEvent) (s : State) :
    (startOp op p s).config = s.config := rfl
@[simp] theorem startOp_rst (op : Instr) (p : List PlanEvent) (s : State) :
    (startOp op p s).rst = s.rst := rfl
@[simp] theorem startOp_cfgValid (op : Instr) (p : List PlanEvent) (s : State) :
    (startOp op p s).cfgValid = s.cfgValid := rfl
@[simp] theorem startOp_requests (op : Instr) (p : List PlanEvent) (s : State) :
    (startOp op p s).requests = s.requests := rfl
@[simp] theorem startOp_answers (op : Instr) (p : List PlanEvent) (s : State) :
    (startOp op p s).answers = s.answers := rfl
@[simp] theorem startOp_trace (op : Instr) (p : List PlanEvent) (s : State) :
    (startOp op p s).trace = s.trace := rfl
@[simp] theorem startOp_responses (op : Instr) (p : List PlanEvent) (s : State) :
    (startOp op p s).responses = s.responses := rfl
@[simp] theorem startOp_freeCount (op : Instr) (p : List PlanEvent) (s : State) :
    (startOp op p s).freeCount = s.freeCount := rfl

@[simp] theorem failEntry_phase (s : State) :
    (failEntry s).phase = .failed := rfl
@[simp] theorem failEntry_backlight (s : State) :
    (failEntry s).backlight = s.backlight := rfl
@[simp] theorem failEntry_lineCount (s : State) :
    (failEntry s).lineCount = s.lineCount := rfl
@[simp] theorem failEntry_entryMode (s : State) :
    (failEntry s).entryMode = s.entryMode := rfl
@[simp] theorem failEntry_displayControl (s : State) :
    (failEntry s).displayControl = s.displayControl := rfl
@[simp] theorem failEntry_functionSet (s : State) :
    (failEntry s).functionSet = s.functionSet := rfl
@[simp] theorem failEntry_busy (s : State) :
    (failEntry s).busy = false := rfl
@[simp] theorem failEntry_cur (s : State) :
    (failEntry s).cur = none := rfl
@[simp] theorem failEntry_plan (s : State) :
    (failEntry s).plan = [] := rfl
@[simp] theorem failEntry_packet (s : State) :
    (failEntry s).packet = [] := rfl
@[simp] theorem failEntry_txPort (s : State) :
    (failEntry s).txPort = none := rfl
@[simp] theorem failEntry_delayLeft (s : State) :
    (failEntry s).delayLeft = 0 := rfl
@[simp] theorem failEntry_rsp (s : State) :
    (failEntry s).rsp = some .transportError := rfl
@[simp] theorem failEntry_config (s : State) :
    (failEntry s).config = s.config := rfl
@[simp] theorem failEntry_rst (s : State) :
    (failEntry s).rst = s.rst := rfl
@[simp] theorem failEntry_cfgValid (s : State) :
    (failEntry s).cfgValid = s.cfgValid := rfl
@[simp] theorem failEntry_requests (s : State) :
    (failEntry s).requests = s.requests := rfl
@[simp] theorem failEntry_answers (s : State) :
    (failEntry s).answers = s.answers := rfl
@[simp] theorem failEntry_trace (s : State) :
    (failEntry s).trace = s.trace := rfl
@[simp] theorem failEntry_responses (s : State) :
    (failEntry s).responses = s.responses ++ [.transportError] := rfl
@[simp] theorem failEntry_freeCount (s : State) :
    (failEntry s).freeCount = s.freeCount := rfl

@[simp] theorem freshState_phase (n : Byte) (s : State) :
    (freshState n s).phase = .uninit := rfl
@[simp] theorem freshState_backlight (n : Byte) (s : State) :
    (freshState n s).backlight = s.config.blInit := rfl
@[simp] theorem freshState_lineCount (n : Byte) (s : State) :
    (freshState n s).lineCount = n.setWidth 2 := rfl
@[simp] theorem freshState_entryMode (n : Byte) (s : State) :
    (freshState n s).entryMode = 0 := rfl
@[simp] theorem freshState_displayControl (n : Byte) (s : State) :
    (freshState n s).displayControl = 0 := rfl
@[simp] theorem freshState_functionSet (n : Byte) (s : State) :
    (freshState n s).functionSet = 0 := rfl
@[simp] theorem freshState_busy (n : Byte) (s : State) :
    (freshState n s).busy = s.busy := rfl
@[simp] theorem freshState_cur (n : Byte) (s : State) :
    (freshState n s).cur = s.cur := rfl
@[simp] theorem freshState_plan (n : Byte) (s : State) :
    (freshState n s).plan = s.plan := rfl
@[simp] theorem freshState_packet (n : Byte) (s : State) :
    (freshState n s).packet = s.packet := rfl
@[simp] theorem freshState_txPort (n : Byte) (s : State) :
    (freshState n s).txPort = s.txPort := rfl
@[simp] theorem freshState_delayLeft (n : Byte) (s : State) :
    (freshState n s).delayLeft = s.delayLeft := rfl
@[simp] theorem freshState_rsp (n : Byte) (s : State) :
    (freshState n s).rsp = s.rsp := rfl
@[simp] theorem freshState_config (n : Byte) (s : State) :
    (freshState n s).config = s.config := rfl
@[simp] theorem freshState_rst (n : Byte) (s : State) :
    (freshState n s).rst = s.rst := rfl
@[simp] theorem freshState_cfgValid (n : Byte) (s : State) :
    (freshState n s).cfgValid = s.cfgValid := rfl
@[simp] theorem freshState_requests (n : Byte) (s : State) :
    (freshState n s).requests = s.requests := rfl
@[simp] theorem freshState_answers (n : Byte) (s : State) :
    (freshState n s).answers = s.answers := rfl
@[simp] theorem freshState_trace (n : Byte) (s : State) :
    (freshState n s).trace = s.trace := rfl
@[simp] theorem freshState_responses (n : Byte) (s : State) :
    (freshState n s).responses = s.responses := rfl
@[simp] theorem freshState_freeCount (n : Byte) (s : State) :
    (freshState n s).freeCount = s.freeCount := rfl

@[simp] theorem finishEvent_phase (e : WireEvent) (p : List PlanEvent) (s : State) :
    (finishEvent e p s).phase = s.phase := rfl
@[simp] theorem finishEvent_backlight (e : WireEvent) (p : List PlanEvent) (s : State) :
    (finishEvent e p s).backlight = s.backlight := rfl
@[simp] theorem finishEvent_lineCount (e : WireEvent) (p : List PlanEvent) (s : State) :
    (finishEvent e p s).lineCount = s.lineCount := rfl
@[simp] theorem finishEvent_entryMode (e : WireEvent) (p : List PlanEvent) (s : State) :
    (finishEvent e p s).entryMode = s.entryMode := rfl
@[simp] theorem finishEvent_displayControl (e : WireEvent) (p : List PlanEvent) (s : State) :
    (finishEvent e p s).displayControl = s.displayControl := rfl
@[simp] theorem finishEvent_functionSet (e : WireEvent) (p : List PlanEvent) (s : State) :
    (finishEvent e p s).functionSet = s.functionSet := rfl
@[simp] theorem finishEvent_busy (e : WireEvent) (p : List PlanEvent) (s : State) :
    (finishEvent e p s).busy = s.busy := rfl
@[simp] theorem finishEvent_cur (e : WireEvent) (p : List PlanEvent) (s : State) :
    (finishEvent e p s).cur = s.cur := rfl
@[simp] theorem finishEvent_plan (e : WireEvent) (p : List PlanEvent) (s : State) :
    (finishEvent e p s).plan = p := rfl
@[simp] theorem finishEvent_packet (e : WireEvent) (p : List PlanEvent) (s : State) :
    (finishEvent e p s).packet = s.packet := rfl
@[simp] theorem finishEvent_txPort (e : WireEvent) (p : List PlanEvent) (s : State) :
    (finishEvent e p s).txPort = none := rfl
@[simp] theorem finishEvent_delayLeft (e : WireEvent) (p : List PlanEvent) (s : State) :
    (finishEvent e p s).delayLeft = 0 := rfl
@[simp] theorem finishEvent_rsp (e : WireEvent) (p : List PlanEvent) (s : State) :
    (finishEvent e p s).rsp = s.rsp := rfl
@[simp] theorem finishEvent_config (e : WireEvent) (p : List PlanEvent) (s : State) :
    (finishEvent e p s).config = s.config := rfl
@[simp] theorem finishEvent_rst (e : WireEvent) (p : List PlanEvent) (s : State) :
    (finishEvent e p s).rst = s.rst := rfl
@[simp] theorem finishEvent_cfgValid (e : WireEvent) (p : List PlanEvent) (s : State) :
    (finishEvent e p s).cfgValid = s.cfgValid := rfl
@[simp] theorem finishEvent_requests (e : WireEvent) (p : List PlanEvent) (s : State) :
    (finishEvent e p s).requests = s.requests := rfl
@[simp] theorem finishEvent_answers (e : WireEvent) (p : List PlanEvent) (s : State) :
    (finishEvent e p s).answers = s.answers := rfl
@[simp] theorem finishEvent_trace (e : WireEvent) (p : List PlanEvent) (s : State) :
    (finishEvent e p s).trace = s.trace ++ [e] := rfl
@[simp] theorem finishEvent_responses (e : WireEvent) (p : List PlanEvent) (s : State) :
    (finishEvent e p s).responses = s.responses := rfl
@[simp] theorem finishEvent_freeCount (e : WireEvent) (p : List PlanEvent) (s : State) :
    (finishEvent e p s).freeCount = s.freeCount := rfl

end Sys2Proof.Machine
end

