-- ==== Sys2Proof/Laws/Run.lean ====
section
/-! SUPPORT. What running a plan can do (R79, R80): one lemma per ending for `runPlan`, and one for `proceed`. -/

namespace Sys2Proof.Machine

@[simp] theorem oks_zero (rest : List Answer) : oks 0 rest = rest := rfl

@[simp] theorem oks_succ (k : Nat) (rest : List Answer) : oks (k + 1) rest = .ok :: oks k rest := by
  simp [oks, List.replicate_succ]

@[simp] theorem writesOf_append (p q : List PlanEvent) : writesOf (p ++ q) = writesOf p ++ writesOf q := by
  induction p with
  | nil => rfl
  | cons e p ih => cases e <;> simp [writesOf, ih]

@[simp] theorem delaysOf_append (p q : List PlanEvent) : delaysOf (p ++ q) = delaysOf p ++ delaysOf q := by
  induction p with
  | nil => rfl
  | cons e p ih => cases e <;> simp [delaysOf, ih]

theorem mem_writesOf {b : Byte} {p : List PlanEvent} : b ∈ writesOf p ↔ PlanEvent.write b ∈ p := by
  induction p with
  | nil => simp [writesOf]
  | cons e p ih => cases e <;> simp [writesOf, ih]

@[simp] theorem performed_append (p q : List PlanEvent) : performed (p ++ q) = performed p ++ performed q := by
  simp [performed]

/-- Every write answered `ok`: the whole plan is performed. -/
theorem runPlan_oks (p : List PlanEvent) (rest : List Answer) :
    runPlan p (oks (writesOf p).length rest) =
      { trace := performed p, plan := [], answers := rest, ending := .done } := by
  induction p with
  | nil => rfl
  | cons e p ih => cases e <;> simp [runPlan, writesOf, performed, Run.after, ih]

/-- Write `k + 1` answered `fail`: the plan is cut there. -/
theorem runPlan_fail (p : List PlanEvent) (k : Nat) (rest : List Answer) (h : k < (writesOf p).length) :
    runPlan p (oks k (.fail :: rest)) =
      { trace := cutAt p k, plan := [], answers := rest, ending := .failed } := by
  induction p generalizing k with
  | nil => simp [writesOf] at h
  | cons e p ih =>
    cases e with
    | delay n => simp [runPlan, cutAt, Run.after, ih k (by simpa [writesOf] using h)]
    | write b =>
      cases k with
      | zero => rfl
      | succ k => simp [runPlan, cutAt, Run.after, ih k (by simpa [writesOf] using h)]

/-- What a run leaves, by how it ended. -/
theorem runPlan_cases (p : List PlanEvent) (as : List Answer) :
    (∃ used, as = used ++ (runPlan p as).answers) ∧
    match (runPlan p as).ending with
    | .done => (runPlan p as).trace = performed p ∧ (runPlan p as).plan = []
    | .failed => (runPlan p as).plan = [] ∧ ∃ done b left, p = done ++ .write b :: left ∧
        (runPlan p as).trace = performed done ++ [.writeFailed b]
    | .waiting => (runPlan p as).answers = [] ∧ ∃ done b left, p = done ++ .write b :: left ∧
        (runPlan p as).trace = performed done ∧ (runPlan p as).plan = .write b :: left := by
  induction p generalizing as with
  | nil => exact ⟨⟨[], rfl⟩, rfl, rfl⟩
  | cons e p ih =>
    cases e with
    | delay n =>
      obtain ⟨hu, h⟩ := ih as
      refine ⟨hu, ?_⟩
      cases he : (runPlan p as).ending <;> simp only [he] at h <;> simp only [runPlan, Run.after, he]
      · exact ⟨by simp [performed, h.1], h.2⟩
      · obtain ⟨h1, d, b, l, rfl, h2⟩ := h
        exact ⟨h1, .delay n :: d, b, l, rfl, by simp [h2, performed]⟩
      · obtain ⟨h1, d, b, l, rfl, h2, h3⟩ := h
        exact ⟨h1, .delay n :: d, b, l, rfl, by simp [h2, performed], h3⟩
    | write b =>
      cases as with
      | nil => exact ⟨⟨[], rfl⟩, rfl, [], b, p, rfl, rfl, rfl⟩
      | cons a as =>
        cases a with
        | fail => exact ⟨⟨[.fail], rfl⟩, rfl, [], b, p, rfl, rfl⟩
        | ok =>
          obtain ⟨⟨used, hu⟩, h⟩ := ih as
          refine ⟨⟨.ok :: used, by simp [runPlan, Run.after, ← hu]⟩, ?_⟩
          cases he : (runPlan p as).ending <;> simp only [he] at h <;> simp only [runPlan, Run.after, he]
          · exact ⟨by simp [performed, h.1], h.2⟩
          · obtain ⟨h1, d, b', l, rfl, h2⟩ := h
            exact ⟨h1, .write b :: d, b', l, rfl, by simp [h2, performed]⟩
          · obtain ⟨h1, d, b', l, rfl, h2, h3⟩ := h
            exact ⟨h1, .write b :: d, b', l, rfl, by simp [h2, performed], h3⟩

/-- A run that waits, given more answers, goes on from where it waits. -/
theorem runPlan_append (p : List PlanEvent) (as bs : List Answer) (h : (runPlan p as).ending = .waiting) :
    runPlan p (as ++ bs) =
      { runPlan (runPlan p as).plan bs with
        trace := (runPlan p as).trace ++ (runPlan (runPlan p as).plan bs).trace } := by
  induction p generalizing as with
  | nil => simp [runPlan] at h
  | cons e p ih =>
    cases e with
    | delay n =>
      have h' : (runPlan p as).ending = .waiting := by simpa [runPlan, Run.after] using h
      simp [runPlan, Run.after, ih as h']
    | write b =>
      cases as with
      | nil => simp [runPlan]
      | cons a as =>
        cases a with
        | fail => simp [runPlan] at h
        | ok =>
          have h' : (runPlan p as).ending = .waiting := by simpa [runPlan, Run.after] using h
          simp [runPlan, Run.after, ih as h']

/-- What `proceed` gives when the run is done. -/
theorem proceed_done {s : State} {tr : List WireEvent} {rest : List Answer} (hb : s.busy = true)
    (h : runPlan s.plan s.answers = { trace := tr, plan := [], answers := rest, ending := .done }) :
    proceed s = respond .ok
      (commitCur { s with trace := s.trace ++ tr, answers := rest, plan := [], delayLeft := 0 }) := by
  simp [proceed, hb, h]

/-- What `proceed` gives when the run failed. -/
theorem proceed_failed {s : State} {tr : List WireEvent} {rest : List Answer} (hb : s.busy = true)
    (h : runPlan s.plan s.answers = { trace := tr, plan := [], answers := rest, ending := .failed }) :
    proceed s = { s.after tr rest .transportError with phase := .failed } := by
  simp [proceed, hb, h, failEntry, respond, State.after]

/-- What `proceed` gives when the run waits. -/
theorem proceed_waiting {s : State} {tr : List WireEvent} {b : Byte} {p : List PlanEvent} (hb : s.busy = true)
    (h : runPlan s.plan s.answers =
      { trace := tr, plan := .write b :: p, answers := [], ending := .waiting }) :
    proceed s = { s with trace := s.trace ++ tr, answers := [], plan := .write b :: p, delayLeft := 0,
                         txPort := some b } := by
  simp [proceed, hb, h, headWrite]

/-- A block that is not busy has nothing to run. -/
theorem proceed_idle {s : State} (hb : s.busy = false) : proceed s = s := by simp [proceed, hb]

/-- Everything `proceed` can do. -/
theorem proceed_cases (s : State) :
    (s.busy = false ∧ proceed s = s) ∨
    (∃ rest, s.busy = true ∧ (∃ used, s.answers = used ++ rest) ∧
      proceed s = respond .ok (commitCur
        { s with trace := s.trace ++ performed s.plan, answers := rest, plan := [], delayLeft := 0 })) ∨
    (∃ rest done b left, s.busy = true ∧ (∃ used, s.answers = used ++ rest) ∧ s.plan = done ++ .write b :: left ∧
      proceed s = { s.after (performed done ++ [.writeFailed b]) rest .transportError with phase := .failed }) ∨
    (∃ done b left, s.busy = true ∧ s.plan = done ++ .write b :: left ∧
      proceed s = { s with trace := s.trace ++ performed done, answers := [], plan := .write b :: left,
                           delayLeft := 0, txPort := some b }) := by
  rcases Bool.eq_false_or_eq_true s.busy with hb | hb
  · obtain ⟨hu, h⟩ := runPlan_cases s.plan s.answers
    generalize hr : runPlan s.plan s.answers = r at h hu
    obtain ⟨tr, p, as, e⟩ := r
    cases e with
    | done =>
      obtain ⟨rfl, rfl⟩ := h
      exact .inr (.inl ⟨as, hb, hu, proceed_done hb hr⟩)
    | failed =>
      obtain ⟨rfl, d, b, l, hp, rfl⟩ := h
      exact .inr (.inr (.inl ⟨as, d, b, l, hb, hu, hp, proceed_failed hb hr⟩))
    | waiting =>
      obtain ⟨rfl, d, b, l, hp, rfl, rfl⟩ := h
      exact .inr (.inr (.inr ⟨d, b, l, hb, hp, proceed_waiting hb hr⟩))
  · exact .inl ⟨hb, proceed_idle hb⟩

end Sys2Proof.Machine
end

