-- ==== Sys2Proof/Laws/Accept.lean ====
section
/-! SUPPORT. What taking an operation does, case by case (R126). -/

namespace Sys2Proof.Machine

/-- Every operation is its acceptance and then the run of its plan (R80, R126). -/
theorem exec_eq_proceed (i : Instr) (s : State) : exec i s = .next (proceed (accept i s)) := by
  cases i <;> rfl

/-- Everything acceptance can do. -/
theorem accept_cases (i : Instr) (s : State) :
    (accept i s = respond .notUsable s ∧ i.opcode ≠ .init ∧ s.phase ≠ .ready) ∨
    (∃ n, i = .init n ∧ (s.cfgValid && lineCountOk n) = false ∧ accept i s = respond .configurationError s) ∨
    (∃ n, i = .init n ∧ s.cfgValid = true ∧ lineCountOk n = true ∧
      accept i s = startOp i (initPlan s.config (blOf s.config.blInit) n) (freshState n s)) ∨
    (∃ on, i = .setBacklight on ∧ s.phase = .ready ∧
      accept i s = startOp i [.write (blOf on)] { s with backlight := on }) ∨
    (i.opcode ≠ .init ∧ i.opcode ≠ .setBacklight ∧ s.phase = .ready ∧
      accept i s = startOp i (sendAll s.config (blOf s.backlight) (logicalBytes i)) s) := by
  cases i with
  | init n =>
    cases h : s.cfgValid && lineCountOk n with
    | false => exact .inr (.inl ⟨n, rfl, h, by simp [accept, acceptInit, h]⟩)
    | true =>
      refine .inr (.inr (.inl ⟨n, rfl, ?_, ?_, ?_⟩))
      · simp_all
      · simp_all
      · simp [accept, acceptInit, h, State.bl]
  | setBacklight on =>
    by_cases h : s.phase = .ready
    · exact .inr (.inr (.inr (.inl ⟨on, rfl, h, by simp [accept, acceptSetBacklight, whenReady, h, State.bl]⟩)))
    · exact .inl ⟨by simp [accept, acceptSetBacklight, whenReady, h], by simp [Instr.opcode], h⟩
  | writeCommand b =>
    by_cases h : s.phase = .ready
    · exact .inr (.inr (.inr (.inr ⟨by simp [Instr.opcode], by simp [Instr.opcode], h,
        by simp [accept, acceptWriteCommand, whenReady, h, State.bl]⟩)))
    · exact .inl ⟨by simp [accept, acceptWriteCommand, whenReady, h], by simp [Instr.opcode], h⟩
  | writeChar c m =>
    by_cases h : s.phase = .ready
    · exact .inr (.inr (.inr (.inr ⟨by simp [Instr.opcode], by simp [Instr.opcode], h,
        by simp [accept, acceptWriteChar, whenReady, h, State.bl]⟩)))
    · exact .inl ⟨by simp [accept, acceptWriteChar, whenReady, h], by simp [Instr.opcode], h⟩
  | displayString l pos text =>
    by_cases h : s.phase = .ready
    · exact .inr (.inr (.inr (.inr ⟨by simp [Instr.opcode], by simp [Instr.opcode], h,
        by simp [accept, acceptDisplayString, whenReady, h, State.bl]⟩)))
    · exact .inl ⟨by simp [accept, acceptDisplayString, whenReady, h], by simp [Instr.opcode], h⟩
  | clear =>
    by_cases h : s.phase = .ready
    · exact .inr (.inr (.inr (.inr ⟨by simp [Instr.opcode], by simp [Instr.opcode], h,
        by simp [accept, acceptClear, whenReady, h, State.bl]⟩)))
    · exact .inl ⟨by simp [accept, acceptClear, whenReady, h], by simp [Instr.opcode], h⟩

/-- Acceptance takes no answer, does nothing on the wire and leaves the parameters, the inputs and the counter. -/
theorem accept_frame (i : Instr) (s : State) :
    (accept i s).answers = s.answers ∧ (accept i s).trace = s.trace ∧ (accept i s).config = s.config ∧
    (accept i s).rst = s.rst ∧ (accept i s).cfgValid = s.cfgValid ∧ (accept i s).requests = s.requests ∧
    (accept i s).freeCount = s.freeCount := by
  rcases accept_cases i s with ⟨h, -, -⟩ | ⟨n, -, -, h⟩ | ⟨n, -, -, -, h⟩ | ⟨on, -, -, h⟩ | ⟨-, -, -, h⟩ <;>
    simp [h]

/-- In READY an operation other than INIT and SET_BACKLIGHT is taken with no state write of its own. -/
theorem accept_ready {i : Instr} {s : State} (hp : s.phase = .ready) (h₁ : i.opcode ≠ .init)
    (h₂ : i.opcode ≠ .setBacklight) :
    accept i s = startOp i (sendAll s.config (blOf s.backlight) (logicalBytes i)) s := by
  rcases accept_cases i s with ⟨-, -, h⟩ | ⟨n, h, -, -⟩ | ⟨n, h, -, -, -⟩ | ⟨on, h, -, -⟩ | ⟨-, -, -, h⟩
  · exact absurd hp h
  · exact absurd (h ▸ rfl) h₁
  · exact absurd (h ▸ rfl) h₁
  · exact absurd (h ▸ rfl) h₂
  · exact h

/-- An operation taken, every write of its plan answered `ok`: the whole plan is on the wire, then the commit, then
the response. -/
theorem exec_done {i : Instr} {s : State} {rest : List Answer} (hb : (accept i s).busy = true)
    (hc : (accept i s).cur = some i) (ha : s.answers = oks (writesOf (accept i s).plan).length rest) :
    exec i s = .next (respond .ok (commit i
      { accept i s with trace := s.trace ++ performed (accept i s).plan, answers := rest, plan := [],
                        delayLeft := 0 })) := by
  obtain ⟨f₁, f₂, -⟩ := accept_frame i s
  rw [exec_eq_proceed, proceed_done hb (by rw [f₁, ha]; exact runPlan_oks _ _)]
  simp [commitCur, hc, f₂]

/-- Everything executing an operation can do: it is refused with a response, or it is accepted and its plan is
run. -/
theorem exec_cases {i : Instr} {s t : State} (h : exec i s = .next t) :
    (t = respond .notUsable s ∧ i.opcode ≠ .init ∧ s.phase ≠ .ready) ∨
    (t = respond .configurationError s ∧ i.opcode = .init) ∨
    (∃ a, a = accept i s ∧ t = proceed a ∧ a.busy = true ∧ a.cur = some i ∧ a.packet = [] ∧ a.txPort = none ∧
      a.delayLeft = 0 ∧ a.responses = s.responses ∧ a.rsp = s.rsp ∧ (i.opcode ≠ .init → s.phase = .ready) ∧
      a.phase = if i.opcode = .init then .uninit else .ready) := by
  rw [exec_eq_proceed] at h
  cases h
  rcases accept_cases i s with ⟨h, h₁, h₂⟩ | ⟨n, rfl, -, h⟩ | ⟨n, rfl, -, -, h⟩ | ⟨on, rfl, hp, h⟩ |
    ⟨h₁, h₂, hp, h⟩
  · exact .inl ⟨by rw [h, proceed_idle (by simp)], h₁, h₂⟩
  · exact .inr (.inl ⟨by rw [h, proceed_idle (by simp)], rfl⟩)
  · exact .inr (.inr ⟨_, rfl, rfl, by rw [h]; simp [Instr.opcode]⟩)
  · exact .inr (.inr ⟨_, rfl, rfl, by rw [h]; simp [Instr.opcode, hp]⟩)
  · exact .inr (.inr ⟨_, rfl, rfl, by rw [h]; simp [h₁, hp]⟩)

end Sys2Proof.Machine
end

