-- ==== Sys2Proof/Laws/Decode.lean ====
section
/-! SUPPORT. The fields of a header word built from fields (R48). -/

namespace Sys2Proof

@[simp] theorem headerOpc_headerWord (opc : BitVec 4) (f : Bool) (arg : Byte) :
    headerOpc (headerWord opc f arg) = opc := by
  apply BitVec.eq_of_getLsbD_eq
  intro i hi
  simp only [headerOpc, headerWord, BitVec.getLsbD_extractLsb', BitVec.getLsbD_append]
  have h1 : ¬ (12 + i < 3 + (1 + 8)) := by omega
  simp [h1, hi]

@[simp] theorem headerRsv_headerWord (opc : BitVec 4) (f : Bool) (arg : Byte) :
    headerRsv (headerWord opc f arg) = 0 := by
  apply BitVec.eq_of_getLsbD_eq
  intro i hi
  simp only [headerRsv, headerWord, BitVec.getLsbD_extractLsb', BitVec.getLsbD_append]
  have h1 : 9 + i < 3 + (1 + 8) := by omega
  have h2 : ¬ (9 + i < 1 + 8) := by omega
  simp [h1, h2]

@[simp] theorem headerF_headerWord (opc : BitVec 4) (f : Bool) (arg : Byte) :
    headerF (headerWord opc f arg) = f := by
  simp only [headerF, headerWord, BitVec.getLsbD_append]
  simp

@[simp] theorem headerArg_headerWord (opc : BitVec 4) (f : Bool) (arg : Byte) :
    headerArg (headerWord opc f arg) = arg := by
  apply BitVec.eq_of_getLsbD_eq
  intro i hi
  simp only [headerArg, headerWord, BitVec.getLsbD_extractLsb', BitVec.getLsbD_append]
  have h1 : i < 9 := by omega
  have h2 : i < 12 := by omega
  simp [hi, h1, h2]

/-- The character of a character word written with its upper byte 0. -/
@[simp] theorem charOfWord_wordOfChar (c : Byte) : charOfWord (wordOfChar c) = c := by
  simp [charOfWord, wordOfChar]

end Sys2Proof
end

