-- ==== Sys2Proof/Laws/PerInstr.lean ====
section
/-! SUPPORT. The per-instruction family HeaderRow: the header word the encoder writes for an instruction decodes to
that instruction's own row of the opcode map (R50). -/

namespace Sys2Proof.Laws.HeaderRow

/-- The first word of the packet of `i` is a legal header, and it is the header of the row of `i`. -/
def Statement (i : Instr) : Prop :=
  ∃ h ws, encode i = h :: ws ∧ (decodeHeader h).map Header.opcode = some i.opcode

theorem init (lineCount : Byte) : Statement (.init lineCount) :=
  ⟨_, _, rfl, by simp [decodeHeader, Header.opcode, Instr.opcode]⟩

theorem writeCommand (b : Byte) : Statement (.writeCommand b) :=
  ⟨_, _, rfl, by simp [decodeHeader, Header.opcode, Instr.opcode]⟩

theorem writeChar (c : Byte) (m : Bool) : Statement (.writeChar c m) :=
  ⟨_, _, rfl, by simp [decodeHeader, Header.opcode, Instr.opcode]⟩

theorem displayString (l : Bool) (pos : Byte) (text : List Byte) : Statement (.displayString l pos text) :=
  ⟨_, _, rfl, by simp [decodeHeader, Header.opcode, Instr.opcode]⟩

theorem clear : Statement .clear :=
  ⟨_, _, rfl, by simp [decodeHeader, Header.opcode, Instr.opcode]⟩

theorem setBacklight (on : Bool) : Statement (.setBacklight on) :=
  ⟨_, _, rfl, by simp [decodeHeader, Header.opcode, Instr.opcode]⟩

end Sys2Proof.Laws.HeaderRow
end

