-- ==== Sys2Proof/Laws/Step.lean ====
section
/-! SUPPORT. Everything a step can do, said once (R47, R126, R145). -/

namespace Sys2Proof.Machine

/-- A step that gives a next state is a reset cycle, or goes on with the operation in progress, or executes the
packet at the front of the channel, refuses an illegal header, or takes the words of an unfinished packet. -/
theorem step_cases {s t : State} (h : step s = .next t) :
    (s.rst = true ∧ t = resetBlock s) ∨
    (s.rst = false ∧ s.busy = true ∧ s.packet = [] ∧ (∃ i, s.cur = some i) ∧ t = proceed s.clearRsp) ∨
    (s.rst = false ∧ (s.busy = false ∨ s.packet ≠ []) ∧
      ((∃ i rest, decodePacket (s.packet ++ s.requests) = .packet i rest ∧
          exec i { s with packet := [], requests := rest, rsp := none } = .next t) ∨
        (∃ w rest, decodePacket (s.packet ++ s.requests) = .illegal w rest ∧
          t = respond .illegalRequest { s with packet := [], requests := rest, rsp := none }) ∨
        (decodePacket (s.packet ++ s.requests) = .incomplete ∧
          t = { s with busy := s.busy || !s.requests.isEmpty, packet := s.packet ++ s.requests,
                       requests := [], rsp := none }))) := by
  unfold step at h
  split at h
  · rename_i hr
    cases h
    exact .inl ⟨hr, rfl⟩
  · rename_i hr
    have hr : s.rst = false := by simpa using hr
    split at h
    · rename_i hb
      have hb : s.busy = true ∧ s.packet = [] := by simpa using hb
      split at h
      · cases h
      · rename_i i hc
        cases h
        exact .inr (.inl ⟨hr, hb.1, hb.2, ⟨i, hc⟩, rfl⟩)
    · rename_i hb
      have hb : s.busy = false ∨ s.packet ≠ [] := by
        cases e : s.busy <;> simp_all
      refine .inr (.inr ⟨hr, hb, ?_⟩)
      simp only [fetch, State.clearRsp_packet, State.clearRsp_requests] at h
      cases hd : decodePacket (s.packet ++ s.requests) with
      | packet i rest => exact .inl ⟨i, rest, rfl, by rw [hd] at h; exact h⟩
      | illegal w rest => exact .inr (.inl ⟨w, rest, rfl, by rw [hd] at h; cases h; rfl⟩)
      | incomplete => exact .inr (.inr ⟨rfl, by rw [hd] at h; cases h; rfl⟩)

end Sys2Proof.Machine
end

