-- ==== Sys2Proof/Laws/Program.lean ====
section
/-! SUPPORT. What ended means field by field, and what giving one packet of a run can do (R169). -/

namespace Sys2Proof.Machine

theorem ended_iff (s : State) :
    s.ended = true ↔
      s.busy = false ∧ s.cur = none ∧ s.plan = [] ∧ s.packet = [] ∧ s.txPort = none ∧ s.delayLeft = 0 := by
  simp [State.ended, and_assoc]

@[simp] theorem respond_ended (st : Status) (s : State) : (respond st s).ended = true := by simp [State.ended]

@[simp] theorem after_ended (s : State) (tr : List WireEvent) (rest : List Answer) (st : Status) :
    (s.after tr rest st).ended = true := by simp [State.ended, State.after]

/-- A response with no event on the wire. -/
theorem respond_eq_after (st : Status) (s : State) : respond st s = s.after [] s.answers st := by
  simp [respond, State.after]

theorem endedAt_eq_some {o : Host.Outcome State Fault Refusal} {t : State} :
    endedAt o = some t ↔ o = .next t ∧ t.ended = true := by
  cases o with
  | next u =>
    simp only [endedAt, Host.Outcome.next.injEq]
    split
    · rename_i h
      constructor
      · intro e; cases e; exact ⟨rfl, h⟩
      · rintro ⟨rfl, -⟩; rfl
    · rename_i h
      constructor
      · intro e; cases e
      · rintro ⟨rfl, h'⟩; exact absurd h' h
  | fault _ => simp [endedAt]
  | refused _ => simp [endedAt]

theorem takes_iff (s : State) (r : Request) :
    s.takes r = true ↔ s.ended = true ∧ s.rst = false ∧ s.requests = [] ∧ isPacket r.words = true := by
  simp [State.takes, and_assoc]

/-- Everything giving a packet can do: it is taken by one step that ends its operation. -/
theorem giveRequest_eq_some {r : Request} {s t : State} :
    giveRequest r s = some t ↔
      (s.ended = true ∧ s.rst = false ∧ s.requests = [] ∧ isPacket r.words = true) ∧
        step (r.present s) = .next t ∧ t.ended = true := by
  unfold giveRequest
  rw [← takes_iff]
  split
  · rename_i h; simp [h, endedAt_eq_some]
  · rename_i h; simp [h]

theorem runRequests_cons {r : Request} {rs : List Request} {s t : State} :
    runRequests (r :: rs) s = some t ↔ ∃ u, giveRequest r s = some u ∧ runRequests rs u = some t := by
  simp only [runRequests]
  cases giveRequest r s <;> simp

theorem runOps_cons {i : Instr} {is : List Instr} {s t : State} :
    runOps (i :: is) s = some t ↔ ∃ u, exec i s = .next u ∧ u.ended = true ∧ runOps is u = some t := by
  simp only [runOps]
  cases h : exec i s with
  | next u => cases hu : u.ended <;> simp [hu]
  | fault _ => simp
  | refused _ => simp

/-- A packet that is taken is a legal one, which runs its instruction, or an illegal header, which is refused. -/
theorem giveRequest_cases {r : Request} {s t : State} (h : giveRequest r s = some t) :
    (∃ i, decodePacket r.words = .packet i [] ∧
      exec i { s with cfgValid := r.cfgValid, rsp := none } = .next t ∧ t.ended = true) ∨
    (∃ w, decodePacket r.words = .illegal w [] ∧
      t = respond .illegalRequest { s with cfgValid := r.cfgValid }) := by
  obtain ⟨⟨he, hr, hq, hp⟩, hs, ht⟩ := giveRequest_eq_some.1 h
  obtain ⟨hb, -, -, hpk, -, -⟩ := (ended_iff s).1 he
  rcases step_cases hs with ⟨hr', -⟩ | ⟨-, hb', -⟩ | ⟨-, -, hd⟩
  · exact absurd hr' (by simp [Request.present, hr])
  · exact absurd hb' (by simp [Request.present, hb])
  · simp only [Request.present, hpk, List.nil_append] at hd
    unfold isPacket at hp
    rcases hd with ⟨i, rest, hd, e⟩ | ⟨w, rest, hd, e⟩ | ⟨hd, -⟩
    · rw [hd] at hp
      have hn : rest = [] := by simpa using hp
      subst hn
      refine .inl ⟨i, hd, ?_, ht⟩
      rw [← e]
      simp only [hpk, hq]
    · rw [hd] at hp
      have hn : rest = [] := by simpa using hp
      subst hn
      refine .inr ⟨w, hd, ?_⟩
      rw [e]
      simp [respond, hq]
    · rw [hd] at hp
      cases hp

end Sys2Proof.Machine
end

