-- ==== Sys2Proof/Laws/Shadow.lean ====
section
/-! SUPPORT. What the shadow update and the commit change, and what they leave (R15, R81). -/

namespace Sys2Proof.Machine

/-- The shadow update writes shadow registers and nothing else. -/
theorem shadowUpdate_frame (s : State) (b : Byte) :
    shadowUpdate s b =
      { s with entryMode := (shadowUpdate s b).entryMode, displayControl := (shadowUpdate s b).displayControl,
               functionSet := (shadowUpdate s b).functionSet } := by
  unfold shadowUpdate
  split
  · rfl
  · split
    · rfl
    · split <;> rfl

set_option maxRecDepth 100000 in
/-- The three byte patterns of the shadow update are three ranges. -/
theorem shadow_patterns (b : Byte) :
    (b &&& 0xFC = 0x04 ↔ 0x04 ≤ b.toNat ∧ b.toNat < 0x08) ∧
    (b &&& 0xF8 = 0x08 ↔ 0x08 ≤ b.toNat ∧ b.toNat < 0x10) ∧
    (b &&& 0xE0 = 0x20 ↔ 0x20 ≤ b.toNat ∧ b.toNat < 0x40) := by
  have key : ∀ n : Fin 256,
      let b : Byte := BitVec.ofFin n
      (b &&& 0xFC = 0x04 ↔ 0x04 ≤ b.toNat ∧ b.toNat < 0x08) ∧
      (b &&& 0xF8 = 0x08 ↔ 0x08 ≤ b.toNat ∧ b.toNat < 0x10) ∧
      (b &&& 0xE0 = 0x20 ↔ 0x20 ≤ b.toNat ∧ b.toNat < 0x40) := by decide
  exact key b.toFin

/-- The shadow update register by register, the patterns as ranges. -/
theorem shadowUpdate_ranges (s : State) (b : Byte) :
    shadowUpdate s b =
      { s with
        entryMode := if 0x04 ≤ b.toNat ∧ b.toNat < 0x08 then b &&& 0x03 else s.entryMode,
        displayControl := if 0x08 ≤ b.toNat ∧ b.toNat < 0x10 then b &&& 0x07 else s.displayControl,
        functionSet := if 0x20 ≤ b.toNat ∧ b.toNat < 0x40 then b &&& 0x1C else s.functionSet } := by
  obtain ⟨k₁, k₂, k₃⟩ := shadow_patterns b
  unfold shadowUpdate
  rw [if_congr k₁ rfl rfl, if_congr k₂ rfl rfl, if_congr k₃ rfl rfl]
  by_cases h₁ : 0x04 ≤ b.toNat ∧ b.toNat < 0x08
  · rw [if_pos h₁, if_pos h₁, if_neg (by omega), if_neg (by omega)]
  · rw [if_neg h₁, if_neg h₁]
    by_cases h₂ : 0x08 ≤ b.toNat ∧ b.toNat < 0x10
    · rw [if_pos h₂, if_pos h₂, if_neg (by omega)]
    · rw [if_neg h₂, if_neg h₂]
      by_cases h₃ : 0x20 ≤ b.toNat ∧ b.toNat < 0x40
      · rw [if_pos h₃, if_pos h₃]
      · rw [if_neg h₃, if_neg h₃]

/-- A byte with bit 7 set matches none of the three patterns: addressing commands change no shadow register. -/
theorem shadowUpdate_addressCommand (s : State) (l : Bool) (pos : Byte) :
    shadowUpdate s (addressCommand l pos) = s := by
  have h : (addressCommand l pos).getLsbD 7 = true := by simp [addressCommand, cmdSetDdramAddr]
  have h7 : 0x80 ≤ (addressCommand l pos).toNat := by
    rw [BitVec.getLsbD, Nat.testBit_eq_decide_div_mod_eq] at h
    have := (addressCommand l pos).isLt
    simp at h; omega
  rw [shadowUpdate_ranges, if_neg (by omega), if_neg (by omega), if_neg (by omega)]

/-- A run of shadow updates writes shadow registers and nothing else. -/
theorem foldl_shadowUpdate_frame (bs : List Byte) (s : State) :
    bs.foldl shadowUpdate s =
      { s with entryMode := (bs.foldl shadowUpdate s).entryMode,
               displayControl := (bs.foldl shadowUpdate s).displayControl,
               functionSet := (bs.foldl shadowUpdate s).functionSet } := by
  induction bs generalizing s with
  | nil => rfl
  | cons b bs ih =>
    rw [List.foldl_cons, ih (shadowUpdate s b), shadowUpdate_frame s b]

/-- What a run of shadow updates leaves in the shadow registers depends on those registers alone. -/
theorem foldl_shadowUpdate_congr (bs : List Byte) (s t : State) (h₁ : t.entryMode = s.entryMode)
    (h₂ : t.displayControl = s.displayControl) (h₃ : t.functionSet = s.functionSet) :
    bs.foldl shadowUpdate t =
      { t with entryMode := (bs.foldl shadowUpdate s).entryMode,
               displayControl := (bs.foldl shadowUpdate s).displayControl,
               functionSet := (bs.foldl shadowUpdate s).functionSet } := by
  induction bs generalizing s t with
  | nil => simp only [List.foldl_nil, ← h₁, ← h₂, ← h₃]
  | cons b bs ih =>
    rw [List.foldl_cons, List.foldl_cons, ih (shadowUpdate s b) (shadowUpdate t b), shadowUpdate_frame t b]
    all_goals simp [shadowUpdate_ranges, h₁, h₂, h₃]

/-- The commit writes the shadow registers, and for INIT the phase, and nothing else. -/
theorem commit_frame (op : Instr) (s : State) :
    commit op s =
      { s with phase := (commit op s).phase, entryMode := (commit op s).entryMode,
               displayControl := (commit op s).displayControl, functionSet := (commit op s).functionSet } := by
  have h := foldl_shadowUpdate_frame (controlBytes op) s
  cases op <;> (unfold commit commitPhase; rw [h])

/-- What a commit leaves in the phase and the shadow registers depends on those alone: two states that agree there
are committed alike. -/
theorem commit_congr (op : Instr) (s t : State) (h₀ : t.phase = s.phase) (h₁ : t.entryMode = s.entryMode)
    (h₂ : t.displayControl = s.displayControl) (h₃ : t.functionSet = s.functionSet) :
    commit op t =
      { t with phase := (commit op s).phase, entryMode := (commit op s).entryMode,
               displayControl := (commit op s).displayControl, functionSet := (commit op s).functionSet } := by
  have hs := foldl_shadowUpdate_frame (controlBytes op) s
  have ht := foldl_shadowUpdate_congr (controlBytes op) s t h₁ h₂ h₃
  cases op <;> (unfold commit commitPhase; rw [ht, hs]) <;> simp [h₀]

/-- How an operation ends does not depend on where the sequencer's own fields stood: two states that differ in those
alone end alike. -/
theorem respond_commit_congr (op : Instr) (st : Status) (s t : State)
    (h : { t with busy := s.busy, cur := s.cur, plan := s.plan, packet := s.packet, txPort := s.txPort,
                  delayLeft := s.delayLeft, rsp := s.rsp } = s) :
    respond st (commit op t) = respond st (commit op s) := by
  have e := commit_congr op t
    { t with busy := s.busy, cur := s.cur, plan := s.plan, packet := s.packet, txPort := s.txPort,
             delayLeft := s.delayLeft, rsp := s.rsp } rfl rfl rfl rfl
  rw [h] at e
  rw [e, commit_frame op t, ← h]
  rfl

/-- The commit of the operation in progress, from any state that agrees in the phase and the shadow registers. -/
theorem commitCur_congr (op : Instr) (s t : State) (hc : t.cur = some op) (h₀ : t.phase = s.phase)
    (h₁ : t.entryMode = s.entryMode) (h₂ : t.displayControl = s.displayControl)
    (h₃ : t.functionSet = s.functionSet) :
    commitCur t =
      { t with phase := (commit op s).phase, entryMode := (commit op s).entryMode,
               displayControl := (commit op s).displayControl, functionSet := (commit op s).functionSet } := by
  have e : commitCur t = commit op t := by simp [commitCur, hc]
  rw [e]
  exact commit_congr op s t h₀ h₁ h₂ h₃

/-- The commit of the operation in progress writes the phase and the shadow registers at most. -/
theorem commitCur_frame (s : State) :
    commitCur s =
      { s with phase := (commitCur s).phase, entryMode := (commitCur s).entryMode,
               displayControl := (commitCur s).displayControl, functionSet := (commitCur s).functionSet } := by
  unfold commitCur
  split
  · exact commit_frame _ _
  · rfl

/-- The phase a commit leaves. -/
theorem commit_phase (op : Instr) (s : State) :
    (commit op s).phase = if op.opcode = .init then .ready else s.phase := by
  have h := congrArg State.phase (foldl_shadowUpdate_frame (controlBytes op) s)
  cases op <;> simp_all [commit, commitPhase, Instr.opcode]

end Sys2Proof.Machine
end

