-- ==== Sys2Proof/Laws/Wire.lean ====
section
/-! SUPPORT. What a nibble cycle and a logical byte write (R72, R74). -/

namespace Sys2Proof.Machine

@[simp] theorem writesOf_nibbleCycle (c : Config) (n bl : Byte) :
    writesOf (nibbleCycle c n bl) = [n ||| bl, n ||| enBit ||| bl, (n &&& ~~~enBit) ||| bl] := rfl

@[simp] theorem delaysOf_nibbleCycle (c : Config) (n bl : Byte) :
    delaysOf (nibbleCycle c n bl) = [c.tEnHigh, c.tEnLow] := rfl

@[simp] theorem writesOf_sendAll_length (c : Config) (bl : Byte) (xs : List LogicalByte) :
    (writesOf (sendAll c bl xs)).length = 6 * xs.length := by
  induction xs with
  | nil => rfl
  | cons x xs ih => simp [sendAll, sendByte, ih]; omega

/-- With the enable bit of the nibble clear, masking it out changes nothing. -/
theorem nibble_masked {n : Byte} (h : n.getLsbD 2 = false) : n &&& ~~~enBit = n := by
  apply BitVec.eq_of_getLsbD_eq
  intro i hi
  have : i = 0 ∨ i = 1 ∨ i = 2 ∨ i = 3 ∨ i = 4 ∨ i = 5 ∨ i = 6 ∨ i = 7 := by omega
  rcases this with rfl | rfl | rfl | rfl | rfl | rfl | rfl | rfl <;> simp_all [enBit]

/-- A nibble cycle on the wire, all well, for a nibble with the enable bit clear. -/
theorem performed_nibbleCycle (c : Config) (n bl : Byte) (h : n.getLsbD 2 = false) :
    performed (nibbleCycle c n bl) = wireNibble c (n ||| bl) := by
  simp only [performed, nibbleCycle, wireNibble, nibble_masked h, List.map_cons, List.map_nil]
  rw [BitVec.or_assoc, BitVec.or_comm enBit bl, ← BitVec.or_assoc]
  rfl

/-- The low half of a byte shifted up needs no mask: the shift is done at 8 bits. -/
theorem shiftLeft_masked (b : Byte) : (b <<< 4) &&& (0xF0 : Byte) = b <<< 4 := by
  apply BitVec.eq_of_getLsbD_eq
  intro i hi
  have : i = 0 ∨ i = 1 ∨ i = 2 ∨ i = 3 ∨ i = 4 ∨ i = 5 ∨ i = 6 ∨ i = 7 := by omega
  rcases this with rfl | rfl | rfl | rfl | rfl | rfl | rfl | rfl <;> simp

/-- The nibbles of a logical byte leave the enable bit clear. -/
theorem nibble_enable_clear (b : Byte) (m : Bool) :
    (highNibble b (modeOf m)).getLsbD 2 = false ∧ (lowNibble b (modeOf m)).getLsbD 2 = false := by
  cases m <;> simp [highNibble, lowNibble, modeOf, rsBit]

/-- A logical byte on the wire, all well (R74). -/
theorem performed_sendByte (c : Config) (b : Byte) (m backlight : Bool) :
    performed (sendByte c b (modeOf m) (blOf backlight)) = wireByte c b m backlight := by
  obtain ⟨h₁, h₂⟩ := nibble_enable_clear b m
  simp only [sendByte, performed_append, wireByte, performed_nibbleCycle _ _ _ h₁, performed_nibbleCycle _ _ _ h₂]
  have e : ∀ x : Byte, modeOf m ||| x ||| blOf backlight =
      x ||| ((if m then 0x01 else 0x00) ||| (if backlight then 0x08 else 0x00)) := by
    intro x
    rw [BitVec.or_comm (modeOf m), BitVec.or_assoc]
    rfl
  simp only [highNibble, lowNibble, e]
  rw [shiftLeft_masked b]

/-- Logical bytes on the wire, one after another, all well. -/
theorem performed_sendAll (c : Config) (backlight : Bool) (xs : List LogicalByte) :
    performed (sendAll c (blOf backlight) xs) = (xs.map fun x => wireByte c x.byte x.data backlight).flatten := by
  induction xs with
  | nil => rfl
  | cons x xs ih => simp [sendAll, performed_sendByte, ih]

end Sys2Proof.Machine
end

