-- ==== Sys2Proof/Tests/Slice0.lean ====
section
/-! SUPPORT. Tests of one step each, their expected results from spec/95_test_vectors.md and the encoding rules, and
for every obligation with hypotheses a witness that meets them together. -/

namespace Sys2Proof.Tests

open Sys2Proof Sys2Proof.Machine

/-! ### States the tests start from -/

/-- The state after INIT with two lines, as the vectors write it: `READY / 1 / 2 / 0x02 / 0x04 / 0x08`. -/
def ready : State :=
  { State.reset with phase := .ready, lineCount := 2, entryMode := 0x02, displayControl := 0x04, functionSet := 0x08 }

/-- The state `FAILED / 0 / 2 / 0 / 0 / 0`. -/
def failed : State := { State.reset with phase := .failed, backlight := false, lineCount := 2 }

/-- `s` with the words `ws` on the request channel and the answers `as` from the transport. -/
def given (s : State) (ws : List ReqWord) (as : List Answer) : State := { s with requests := ws, answers := as }

/-- The state after one step; `s` itself where the step stops, which no test expects. -/
def stepped (s : State) : State :=
  match step s with
  | .next t => t
  | .fault _ => s
  | .refused _ => s

/-- The step from `s` with words `ws` and answers `as`. -/
def ran (s : State) (ws : List ReqWord) (as : List Answer) : State := stepped (given s ws as)

/-- The six registers of R10, in the order of the vectors. -/
def regs (s : State) : Phase × Bool × Nat × Nat × Nat × Nat :=
  (s.phase, s.backlight, s.lineCount.toNat, s.entryMode.toNat, s.displayControl.toNat, s.functionSet.toNat)

/-- A packet is refused with status `st`: that response, an empty trace, the registers as they were, its words
consumed. -/
def refusedWith (s : State) (ws : List ReqWord) (st : Status) : Bool :=
  let t := ran s ws []
  decide (t.rsp = some st) && decide (t.trace = []) && decide (regs t = regs s) && decide (t.requests = []) &&
    t.ended

/-! ### Well-formedness -/

theorem wf_displayString (l : Bool) (pos : Byte) (text : List Byte) :
    (Instr.displayString l pos text).wf = decide (text.length ≤ 65535) := rfl

/-- R66: a text longer than 65535 is no spelling of a request. -/
theorem test_wf_refuses_long_text : (Instr.displayString false 0 (List.replicate 65536 0)).wf = false := by
  rw [wf_displayString, List.length_replicate]
  rfl

/-- R57: a text of 65535 characters fits the length word. -/
theorem test_wf_takes_longest_text : (Instr.displayString true 0xFF (List.replicate 65535 0xFF)).wf = true := by
  rw [wf_displayString, List.length_replicate]
  rfl

/-! ### Decoding, the words written out bit by bit from the encodings of R51 to R57 -/

theorem test_decode_init : decodePacket [0b0000000000000010] = .packet (.init 2) [] := by decide

theorem test_decode_writeCommand : decodePacket [0b0001000000001100] = .packet (.writeCommand 0x0C) [] := by decide

theorem test_decode_writeChar :
    decodePacket [0b0010000101000001, 0b0010000001000001] = .packet (.writeChar 0x41 true) [0x2041] ∧
    decodePacket [0b0010000001000001] = .packet (.writeChar 0x41 false) [] := by decide

theorem test_decode_displayString :
    decodePacket [0b0011000100000011, 0b0000000000000010, 0b0000000001001000, 0b1111111101001001, 0x4000] =
      .packet (.displayString true 3 [0x48, 0x49]) [0x4000] ∧
    decodePacket [0b0011000000000000, 0] = .packet (.displayString false 0 []) [] ∧
    decodePacket [0x3000] = .incomplete ∧ decodePacket [0x3000, 1] = .incomplete := by decide

theorem test_decode_clear : decodePacket [0b0100000000000000] = .packet .clear [] := by decide

theorem test_decode_setBacklight :
    decodePacket [0b0101000100000000] = .packet (.setBacklight true) [] ∧
    decodePacket [0b0101000000000000] = .packet (.setBacklight false) [] := by decide

/-- V6: reserved opcodes, each reserved bit alone and all three, and the fields that must be zero. -/
theorem test_decode_illegal :
    (([0x6000, 0x7ABC, 0x8000, 0x9000, 0xA000, 0xB000, 0xC000, 0xD000, 0xE000, 0xF000, 0xFFFF,
        0x0202, 0x0402, 0x0802, 0x0E02, 0x0102, 0x110C, 0x4100, 0x4001, 0x4800, 0x5101, 0x5001, 0x5200, 0x51FF,
        0x1200, 0x2E41, 0x3200] : List ReqWord).all fun h => decide (decodePacket [h, 0] = .illegal h [0])) = true := by
  decide

/-- The numbering of the opcode table: bit 0 is the lowest bit of the first word; a DISPLAY_STRING row of two words. -/
theorem test_table_word :
    decodeTableWord 16 0x0002 = some (.init 2) ∧ decodeTableWord 16 0x4001 = none ∧
    decodeTableWord 32 0x00003103 = some (.displayString true 3 []) ∧
    decodeTableWord 64 0x0049004800023103 = some (.displayString true 3 [0x48, 0x49]) := by decide

/-- The first instruction after reset is the one placed. -/
theorem test_withFetchWord :
    step (State.reset.withFetchWord 16 0x0003) = exec (.init 3) State.reset ∧
    step (State.reset.withFetchWord 32 0x3103) = exec (.displayString true 3 []) State.reset :=
  ⟨rfl, rfl⟩

/-! ### One step of each operation -/

/-- V2: INIT from READY with the backlight off, one line: the backlight is on again, the shadow registers fresh. -/
theorem test_init_ok :
    regs (ran { ready with backlight := false, entryMode := 3, displayControl := 7, functionSet := 0x1C } [0x0001]
      (oks 36 [])) = (.ready, true, 1, 0x02, 0x04, 0x08) := by decide

/-- V2: INIT whose fourteenth write fails. -/
theorem test_init_fails :
    let t := ran ready [0x0001] (oks 13 [.fail])
    regs t = (.failed, true, 1, 0, 0, 0) ∧ t.rsp = some .transportError ∧
    t.trace.drop 15 =
      [.wrote 0x38, .wrote 0x3C, .delayed 5, .wrote 0x38, .delayed 1, .wrote 0x28, .writeFailed 0x2C] := by decide

/-- V3: writeCommand(0x0F). -/
theorem test_writeCommand_ok :
    let t := ran ready [0x100F] (oks 6 [])
    t.trace = [.wrote 0x08, .wrote 0x0C, .delayed 5, .wrote 0x08, .delayed 1,
      .wrote 0xF8, .wrote 0xFC, .delayed 5, .wrote 0xF8, .delayed 1] ∧
    regs t = (.ready, true, 2, 0x02, 0x07, 0x08) ∧ t.rsp = some .ok := by decide

/-- V3: writeCommand(0x0F) whose sixth write fails: no commit. -/
theorem test_writeCommand_fails :
    let t := ran ready [0x100F] (oks 5 [.fail])
    t.trace = [.wrote 0x08, .wrote 0x0C, .delayed 5, .wrote 0x08, .delayed 1,
      .wrote 0xF8, .wrote 0xFC, .delayed 5, .writeFailed 0xF8] ∧
    regs t = (.failed, true, 2, 0x02, 0x04, 0x08) := by decide

/-- V3: writeChar(0x0C): data, not a command. -/
theorem test_writeChar_data :
    let t := ran ready [0x210C] (oks 6 [])
    t.trace = [.wrote 0x09, .wrote 0x0D, .delayed 5, .wrote 0x09, .delayed 1,
      .wrote 0xC9, .wrote 0xCD, .delayed 5, .wrote 0xC9, .delayed 1] ∧ regs t = regs ready := by decide

/-- V3, R15: writeChar(0x07, mode=0) is a control byte, and the entry mode takes its flags. -/
theorem test_writeChar_control :
    regs (ran ready [0x2007] (oks 6 [])) = (.ready, true, 2, 0x03, 0x04, 0x08) := by decide

/-- V4: the packet `0x30FF 0x0001 0x01FF`. -/
theorem test_displayString_ok :
    let t := ran ready [0x30FF, 0x0001, 0x01FF] (oks 12 [])
    t.trace = [.wrote 0xF8, .wrote 0xFC, .delayed 5, .wrote 0xF8, .delayed 1,
      .wrote 0xF8, .wrote 0xFC, .delayed 5, .wrote 0xF8, .delayed 1,
      .wrote 0xF9, .wrote 0xFD, .delayed 5, .wrote 0xF9, .delayed 1,
      .wrote 0xF9, .wrote 0xFD, .delayed 5, .wrote 0xF9, .delayed 1] ∧ regs t = regs ready := by decide

/-- V4: a three-character string whose eleventh write fails. -/
theorem test_displayString_fails :
    let t := ran ready [0x3000, 0x0003, 0x0041, 0x0042, 0x0043] (oks 10 [.fail])
    t.trace.drop 10 =
      [.wrote 0x49, .wrote 0x4D, .delayed 5, .wrote 0x49, .delayed 1, .wrote 0x19, .writeFailed 0x1D] ∧
    t.phase = .failed ∧ t.requests = [] := by decide

/-- E3: clear(). -/
theorem test_clear_ok :
    let t := ran ready [0x4000] (oks 12 [])
    t.trace = [.wrote 0x08, .wrote 0x0C, .delayed 5, .wrote 0x08, .delayed 1,
      .wrote 0x18, .wrote 0x1C, .delayed 5, .wrote 0x18, .delayed 1,
      .wrote 0x08, .wrote 0x0C, .delayed 5, .wrote 0x08, .delayed 1,
      .wrote 0x28, .wrote 0x2C, .delayed 5, .wrote 0x28, .delayed 1] ∧ regs t = regs ready := by decide

/-- V4: CLEAR whose seventh write fails: 0x01 went out whole, 0x02 did not start. -/
theorem test_clear_fails :
    (ran ready [0x4000] (oks 6 [.fail])).trace.drop 10 = [.writeFailed 0x08] := by decide

/-- V5: SET_BACKLIGHT off. -/
theorem test_setBacklight_ok :
    let t := ran ready [0x5000] (oks 1 [])
    t.trace = [.wrote 0x00] ∧ regs t = (.ready, false, 2, 0x02, 0x04, 0x08) := by decide

/-- V5: SET_BACKLIGHT off whose write fails: the flag keeps the new value. -/
theorem test_setBacklight_fails :
    let t := ran ready [0x5000] [.fail]
    t.trace = [.writeFailed 0x00] ∧ regs t = (.failed, false, 2, 0x02, 0x04, 0x08) := by decide

/-- V2 and V6: the refusals and the order of the checks. -/
theorem test_refusals :
    refusedWith State.reset [0x100C] .notUsable ∧ refusedWith State.reset [0x3000, 1, 0x41] .notUsable ∧
    refusedWith State.reset [0x110C] .illegalRequest ∧ refusedWith failed [0x4000] .notUsable ∧
    refusedWith failed [0x0005] .configurationError ∧ refusedWith failed [0x0105] .illegalRequest ∧
    refusedWith State.reset [0x0000] .configurationError ∧ refusedWith ready [0x0003] .configurationError ∧
    refusedWith { failed with cfgValid := false } [0x0002] .configurationError := by decide

/-- V4: after the illegal header `0x3200` the word `0x0000` is a new header. -/
theorem test_illegal_header_takes_one_word :
    let t := ran ready [0x3200, 0x0000] []
    t.rsp = some .illegalRequest ∧ t.requests = [0x0000] ∧ (stepped t).rsp = some .configurationError := by decide

/-- R147: reset withdraws the write on the port. -/
theorem test_reset_withdraws :
    let s := ran ready [0x2141] (oks 1 [])
    s.txPort = some 0x4D ∧ regs (stepped { s with rst := true }) = (.uninit, true, 0, 0, 0, 0) ∧
    (stepped { s with rst := true }).txPort = none := by decide

/-! ### Witnesses: each meets all hypotheses of the obligation it is named after -/

/-- A busy state: WRITE_CHAR of 0x41, one write answered, the next one on the port, one more answer given. -/
def running : State :=
  { ready with busy := true, cur := some (.writeChar 0x41 true), txPort := some 0x4D,
               plan := [.write 0x4D, .delay 5, .write 0x49, .delay 1,
                        .write 0x19, .write 0x1D, .delay 5, .write 0x19, .delay 1],
               trace := [.wrote 0x49] }

/-- A state in the middle of the packet of a DISPLAY_STRING of two characters. -/
def taking : State := { ready with busy := true, packet := [0x3103, 0x0002] }

theorem reset_inv : State.reset.Inv := by
  constructor <;> simp [State.reset, State.resetWith, State.ended]

theorem ready_inv : ready.Inv := by
  constructor <;> simp [ready, State.reset, State.resetWith, State.ended]

theorem failed_inv : failed.Inv := by
  constructor <;> simp [failed, State.reset, State.resetWith]
  decide

theorem running_inv : running.Inv := by
  constructor <;> simp [running, ready, headWrite, State.reset, State.resetWith, Instr.opcode]

theorem taking_inv : taking.Inv := by
  constructor <;> simp [taking, ready, State.reset, State.resetWith]
  decide

theorem running_wireInv : running.WireInv := by
  constructor <;> simp [running, ready, State.reset, State.resetWith, Config.spec, WireEvent.byte]

theorem witness_OpcodeMapSelectsTheDecodedOperation :
    (⟨.setBacklight, 0xFEFF, 0x5000⟩ : OpcodeRow) ∈ opcodeMap ∧
    (⟨.setBacklight, 0xFEFF, 0x5000⟩ : OpcodeRow).selects 0x5100 = true := by decide

/-- Each clause of the illegal headers at its boundary, and the legal headers next to them. -/
theorem witness_IllegalHeaderIsRefusedAsOneWord :
    let s := given ready [0x6000, 0x4000] []
    s.rst = false ∧ s.ended = true ∧ s.requests = 0x6000 :: [0x4000] ∧ decodeHeader 0x6000 = none ∧
    decodeHeader 0x0200 = none ∧ decodeHeader 0x0100 = none ∧ decodeHeader 0x1100 = none ∧
    decodeHeader 0x4100 = none ∧ decodeHeader 0x4001 = none ∧ decodeHeader 0x5001 = none ∧
    (decodeHeader 0x00FF).isSome ∧ (decodeHeader 0x10FF).isSome ∧ (decodeHeader 0x21FF).isSome ∧
    (decodeHeader 0x31FF).isSome ∧ (decodeHeader 0x4000).isSome ∧ (decodeHeader 0x5100).isSome := by decide

theorem witness_DecodeOfEncodeIsTheInstruction :
    (Instr.init 0xFF).wf = true ∧ (Instr.writeCommand 0xFF).wf = true ∧ (Instr.writeChar 0xFF true).wf = true ∧
    (Instr.displayString true 0xFF [0xFF]).wf = true ∧ Instr.clear.wf = true ∧
    (Instr.setBacklight true).wf = true := by decide

theorem witness_DecodedPacketIsAnEncoding :
    decodePacket [0x30FF, 0x0001, 0x01FF, 0x4000] = .packet (.displayString false 0xFF [0xFF]) [0x4000] := by decide

/-- The spellings at the ends of their ranges, and the texts just outside. -/
theorem witness_AssemblerGivesThePacketsOfTheTable :
    (255 < 256 ∧ ∀ c ∈ [0, 255], c < 256) ∧ [0, 255].length ≤ 65535 ∧
    assemblePacket (.displayString [0, 255] 2 255) = some [0x31FF, 0x0002, 0x0000, 0x00FF] ∧
    assemblePacket (.displayString [] 0 0) = none ∧ assemblePacket (.displayString [] 3 0) = none ∧
    assemblePacket (.displayString [] 1 256) = none ∧ assemblePacket (.displayString [256] 1 0) = none ∧
    assemblePacket (.writeChar 0 2) = none ∧ assemblePacket (.writeChar 256 1) = none := by decide

theorem witness_BitOneOfEveryPlannedByteIsZero :
    ready.config.initNibble.getLsbD 1 = false ∧ PlanEvent.write 0x28 ∈ (accept .clear ready).plan := by decide

/-- An operation that fails and one that waits with a byte on the port. -/
theorem witness_BacklightIsMergedIntoEveryByte :
    ready.config.initNibble.getLsbD 3 = false ∧
    (∃ t, exec (.init 2) (given ready [] [.ok, .fail]) = .next t) ∧
    ∃ t, exec (.setBacklight false) ready = .next t ∧ t.txPort = some 0x00 :=
  ⟨rfl, ⟨_, rfl⟩, _, rfl, rfl⟩

theorem witness_EnableIsPulsedOverOneUnmovingByte :
    ready.config.initNibble.getLsbD 2 = false ∧ 0x00 ∈ writesOf (accept (.setBacklight false) ready).plan ∧
    Instr.clear ≠ .setBacklight true ∧ (writesOf (accept .clear ready).plan).getLast? = some 0x28 := by decide

/-- Also for DelayTotalOfEachOperation. -/
theorem witness_WriteCountOfEachOperation :
    ready.config = Config.spec ∧ ready.cfgValid = true ∧ lineCountOk 1 = true ∧ lineCountOk 2 = true ∧
    ready.phase = .ready := by decide

/-- Also for InitForgetsTheDisplayState. -/
theorem witness_InitCompletes :
    let s := given failed [] (oks 36 [.fail])
    s.config = Config.spec ∧ s.cfgValid = true ∧ ((1 : Byte) = 1 ∨ (1 : Byte) = 2) ∧
    ((2 : Byte) = 1 ∨ (2 : Byte) = 2) ∧ s.answers = oks 36 [.fail] := by decide

/-- The literal `INIT_NIBBLE` 0x03 and the backlight off after reset. -/
theorem witness_InitCompletesAtAnyParameters :
    let s := given (State.resetWith { Config.spec with initNibble := 0x03, blInit := false }) [] (oks 36 [])
    s.config.initNibble.getLsbD 2 = false ∧ s.cfgValid = true ∧ s.answers = oks 36 [] := by decide

theorem witness_InitRefusesAnInvalidConfiguration :
    ((0 : Byte) ≠ 1 ∧ (0 : Byte) ≠ 2) ∧ ((3 : Byte) ≠ 1 ∧ (3 : Byte) ≠ 2) ∧
    { ready with cfgValid := false }.cfgValid = false ∧
    ready.rsp = none ∧ ∃ t, exec (.init 3) ready = .next t ∧ t.rsp = some .configurationError :=
  ⟨by decide, by decide, rfl, rfl, _, rfl, rfl⟩

/-- The first write and the last one. -/
theorem witness_InitFailsAtAnyWrite :
    State.reset.cfgValid = true ∧ 0 < 36 ∧ (given State.reset [] [.fail]).answers = oks 0 (.fail :: []) ∧ 35 < 36 ∧
    (given State.reset [] (oks 35 [.fail, .ok])).answers = oks 35 (.fail :: [.ok]) ∧
    failed.phase = .failed ∧ Instr.clear.opcode ≠ .init := by decide

/-- Also for WriteCharCompletes; the bytes at the ends of the three ranges, and just outside them. -/
theorem witness_WriteCommandCompletes :
    let s := given ready [] (oks 6 [.ok])
    s.phase = .ready ∧ s.answers = oks 6 [.ok] ∧
    (shadowUpdate s 0x03 = s ∧ (shadowUpdate s 0x04).entryMode = 0 ∧ (shadowUpdate s 0x07).entryMode = 3) ∧
    ((shadowUpdate s 0x08).displayControl = 0 ∧ (shadowUpdate s 0x0F).displayControl = 7) ∧
    (shadowUpdate s 0x10 = s ∧ shadowUpdate s 0x1F = s ∧ (shadowUpdate s 0x20).functionSet = 0 ∧
      (shadowUpdate s 0x3F).functionSet = 0x1C ∧ shadowUpdate s 0x40 = s ∧ shadowUpdate s 0xFF = s) := by decide

theorem witness_RegisterSelectIsInEveryByteOfACharacter : ready.phase = .ready ∧ ready.backlight = true := by decide

theorem witness_ShadowUpdateByByteClass :
    (0x03#8).toNat < 0x04 ∧ (0x04 ≤ (0x04#8).toNat ∧ (0x07#8).toNat < 0x08) ∧
    (0x08 ≤ (0x08#8).toNat ∧ (0x0F#8).toNat < 0x10) ∧ (0x10 ≤ (0x10#8).toNat ∧ (0x1F#8).toNat < 0x20) ∧
    (0x20 ≤ (0x20#8).toNat ∧ (0x3F#8).toNat < 0x40) ∧ 0x40 ≤ (0x40#8).toNat := by decide

/-- Also for DisplayStringIsACommandThenCharacters; an empty text and one of two characters. -/
theorem witness_DisplayStringCompletes :
    ready.phase = .ready ∧ (given ready [] (oks 6 [])).answers = oks (6 + 6 * ([] : List Byte).length) [] ∧
    (given ready [] (oks 18 [.fail])).answers = oks (6 + 6 * ([0x48, 0x49] : List Byte).length) [.fail] := by decide

theorem witness_ClearCompletes :
    ready.phase = .ready ∧ (given ready [] (oks 12 [])).answers = oks 12 [] := by decide

theorem witness_SetBacklightCompletesOrFails :
    ready.phase = .ready ∧ (given ready [] [.ok]).answers = .ok :: [] ∧
    (given ready [] [.fail, .ok]).answers = .fail :: [.ok] := by decide

theorem witness_BacklightOffThenOn :
    ready.phase = .ready ∧ ready.config = Config.spec ∧ (given ready [] (oks 8 [])).answers = oks 8 [] := by decide

/-- Both halves: the first and the last write of an operation, and an operation that was waiting. -/
theorem witness_FailedWriteAbortsTheOperation :
    ((accept .clear ready).busy = true ∧ 0 < (writesOf (accept .clear ready).plan).length ∧
      11 < (writesOf (accept .clear ready).plan).length) ∧
    (given ready [] (oks 11 [.fail])).answers = oks 11 (.fail :: []) ∧
    (running.rst = false ∧ running.busy = true ∧ running.packet = [] ∧
      running.cur = some (.writeChar 0x41 true) ∧ 0 < (writesOf running.plan).length ∧
      4 < (writesOf running.plan).length ∧ (given running [] [.fail]).answers = oks 0 (.fail :: []) ∧
      (given running [] (oks 4 [.fail])).answers = oks 4 (.fail :: [])) := by decide

/-- One state for each clause. -/
theorem witness_AcceptanceChecksAndWrites :
    (Instr.clear.opcode ≠ .init ∧ State.reset.phase ≠ .ready) ∧
    ({ ready with cfgValid := false }.cfgValid = false ∧ (0 : Byte) ≠ 1 ∧ (3 : Byte) ≠ 2) ∧
    ready.cfgValid = true ∧ ready.phase = .ready ∧ Instr.clear.opcode ≠ .setBacklight := by decide

/-- From an idle block and from one that took part of the packet in an earlier step. -/
theorem witness_NotUsableOutsideReady :
    let s := given failed [0x3000, 0x0001, 0x0041, 0x0002] []
    let u := given { State.reset with busy := true, packet := [0x3000, 0x0001] } [0x0041, 0x0002] []
    let i := Instr.displayString false 0 [0x41]
    i.opcode ≠ .init ∧
    (s.rst = false ∧ s.busy = false ∧ s.phase ≠ .ready ∧
      decodePacket (s.packet ++ s.requests) = .packet i [0x0002]) ∧
    (u.rst = false ∧ u.busy = true ∧ u.packet ≠ [] ∧ u.phase ≠ .ready ∧
      decodePacket (u.packet ++ u.requests) = .packet i [0x0002]) ∧
    failed.rsp = none ∧ ∃ t, exec .clear failed = .next t ∧ t.rsp = some .notUsable :=
  ⟨by decide, by decide, by decide, rfl, _, rfl, rfl⟩

/-- An operation for each status, and one that has not ended. Also for FrameOfEveryOperation and
TraceIsThePlanFromTheFront. -/
theorem witness_StatusesOfEachOperation :
    ready.rsp = none ∧
    (∃ t, exec .clear (given ready [] (oks 12 [])) = .next t ∧ t.rsp = some .ok) ∧
    (∃ t, exec .clear (given ready [] (oks 2 [.fail])) = .next t ∧ t.rsp = some .transportError ∧
      t.trace = [.wrote 0x08, .wrote 0x0C, .delayed 5] ++ .writeFailed 0x08 :: []) ∧
    (∃ t, exec .clear State.reset = .next t ∧ t.rsp = some .notUsable) ∧
    (∃ t, exec (.init 0) ready = .next t ∧ t.rsp = some .configurationError) ∧
    (∃ t, exec .clear (given ready [] [.ok]) = .next t ∧ t.rsp = none ∧ t.busy = true) :=
  ⟨rfl, ⟨_, rfl, rfl⟩, ⟨_, rfl, rfl, rfl⟩, ⟨_, rfl, rfl⟩, ⟨_, rfl, rfl⟩, ⟨_, rfl, rfl, rfl⟩⟩

/-- An operation that ends and one that goes on waiting. -/
theorem witness_OneResponsePerOperation :
    running.rst = false ∧ running.busy = true ∧ running.packet = [] ∧ running.cur = some (.writeChar 0x41 true) ∧
    (∃ t, step (given running [] (oks 5 [])) = .next t ∧ t.ended = true) ∧
    (∃ t, step (given running [] [.ok]) = .next t ∧ t.busy = true) :=
  ⟨rfl, rfl, rfl, rfl, ⟨_, rfl, rfl⟩, ⟨_, rfl, rfl⟩⟩

/-- One step for each transition: reset, no change, failure, and the three ends of a step of INIT. -/
theorem witness_PhaseTransitionsOfAStep :
    (running.Inv ∧ ∃ t, step running = .next t ∧ t.phase = .ready) ∧
    (∃ t, step { running with rst := true } = .next t ∧ t.phase = .uninit) ∧
    (∃ t, step (given running [] [.fail]) = .next t ∧ t.phase = .failed ∧ t.rsp = some .transportError) ∧
    (∃ t, step (given ready [0x0001] []) = .next t ∧ t.phase = .uninit ∧ t.busy = true) ∧
    (∃ t, step (given ready [0x0001] (oks 36 [])) = .next t ∧ t.phase = .ready ∧ t.rsp = some .ok) ∧
    (∃ t, step (given ready [0x0001] [.fail]) = .next t ∧ t.phase = .failed) :=
  ⟨⟨running_inv, _, rfl, rfl⟩, ⟨_, rfl, rfl⟩, ⟨_, rfl, rfl, rfl⟩, ⟨_, rfl, rfl, rfl⟩, ⟨_, rfl, rfl, rfl⟩,
    ⟨_, rfl, rfl⟩⟩

theorem witness_FailedIsLeftOnlyByInitOrReset :
    failed.Inv ∧ failed.phase = .failed ∧ (∃ t, step { failed with rst := true } = .next t ∧ t.phase ≠ .failed) ∧
    (∃ t, step (given failed [0x0002] (oks 36 [])) = .next t ∧ t.phase ≠ .failed) :=
  ⟨failed_inv, rfl, ⟨_, rfl, by decide⟩, ⟨_, rfl, by decide⟩⟩

/-- Packets with an illegal header among them and with `cfg_valid` 0 at one INIT and 1 at the next; operations. -/
theorem witness_RunIsItsOperationsInOrder :
    (∃ t, runRequests [⟨[0x100C], true⟩, ⟨[0x6000], true⟩, ⟨[0x0002], false⟩, ⟨[0x0001], true⟩,
        ⟨[0x3103, 0x0001, 0x0048], true⟩, ⟨[0x5000], false⟩] (given State.reset [] (oks 48 [.fail])) = some t ∧
      t.responses = [.notUsable, .illegalRequest, .configurationError, .ok, .ok, .transportError] ∧
      t.phase = .failed) ∧
    ∃ t, runOps [.setBacklight false, .writeChar 0x41 true, .init 0] (given ready [] (oks 7 [])) = some t :=
  ⟨⟨_, rfl, rfl, rfl⟩, _, rfl⟩

/-- R169, R170: no run starts in a busy block or in reset, and a packet whose operation waits has no end state. -/
theorem test_runs_that_are_none :
    runRequests [⟨[0x4000], true⟩] running = none ∧ runRequests [] running = none ∧
    runRequests [⟨[0x4000], true⟩] { ready with rst := true } = none ∧
    runRequests [⟨[0x4000], true⟩] (given ready [] (oks 11 [])) = none ∧
    runRequests [⟨[0x3000, 0x0001], true⟩] ready = none := by decide

/-- With a write on the port and without one. -/
theorem witness_ResetAbandonsTheOperation :
    { running with rst := true }.rst = true ∧ { running with rst := true }.txPort = some 0x4D ∧
    { ready with rst := true }.rst = true ∧ { ready with rst := true }.txPort = none := by decide

/-- From an idle block and from one that has taken part of the packet. -/
theorem witness_StepRunsTheDecodedInstruction :
    let s := given taking [0x0048, 0x0049, 0x4000] []
    (ready.rst = false ∧ ready.busy = false ∧
      decodePacket ((given ready [0x4000] []).packet ++ (given ready [0x4000] []).requests) = .packet .clear []) ∧
    s.rst = false ∧ s.packet ≠ [] ∧
    decodePacket (s.packet ++ s.requests) = .packet (.displayString true 3 [0x48, 0x49]) [0x4000] := by decide

/-- From an idle block and from one that has taken part of the packet. -/
theorem witness_UnfinishedPacketWaits :
    let s := given ready [0x3103, 0x0001] []
    let u := given taking [0x0048] []
    (s.rst = false ∧ s.busy = false ∧ s.packet ++ s.requests ≠ [] ∧ s.packet = [] ∧
      decodePacket (s.packet ++ s.requests) = .incomplete) ∧
    u.rst = false ∧ u.packet ≠ [] ∧ u.packet ++ u.requests ≠ [] ∧ u.busy = true ∧
    decodePacket (u.packet ++ u.requests) = .incomplete := by decide

theorem witness_NoRequestIsTakenWhileAnOperationRuns :
    running.busy = true ∧ running.packet = [] ∧
    ∃ t, step (given running [0x4000] [.ok]) = .next t ∧ t.requests = [0x4000] := ⟨rfl, rfl, _, rfl, rfl⟩

theorem witness_SilentTransportLeavesTheOperationWaiting :
    running.rst = false ∧ running.busy = true ∧ running.packet = [] ∧ running.cur = some (.writeChar 0x41 true) ∧
    running.plan = .write 0x4D :: running.plan.tail ∧ running.answers = [] := by decide

theorem witness_IdleBlockWaitsForAHeader :
    ready.rst = false ∧ ready.ended = true ∧ ready.requests = [] := by decide

theorem witness_ResumedOperationEndsAsAnUninterruptedOne :
    ready.rst = false ∧ ready.rsp = none ∧
    ∃ u, exec .clear { ready with answers := [.ok, .ok] } = .next u ∧ u.busy = true := ⟨rfl, rfl, _, rfl, rfl⟩

/-- A step that starts idle, one in the middle of a packet, one in the middle of an operation. Also for
StepKeepsTheInvariant. -/
theorem witness_StepIsARunOfTicks :
    (ready.Inv ∧ ready.rst = false ∧ ∃ t, step ready = .next t) ∧
    (taking.Inv ∧ taking.rst = false ∧ ∃ t, step taking = .next t) ∧
    (running.Inv ∧ running.rst = false ∧ ∃ t, step running = .next t) :=
  ⟨⟨ready_inv, rfl, _, rfl⟩, ⟨taking_inv, rfl, _, rfl⟩, ⟨running_inv, rfl, _, rfl⟩⟩

/-- Also for StepNeverStops and StatusOutputsShowTheRegisters, whose one hypothesis is the invariant. -/
theorem witness_ReachableStatesMeetTheInvariant :
    Reachable Config.spec State.reset ∧ State.reset.Inv ∧
    Reachable Config.spec (tick ((HostMove.present 0x0002).apply State.reset)) :=
  ⟨.reset, reset_inv, .tick _ (.host _ _ .reset)⟩

theorem witness_StepKeepsTheWireInvariant : running.WireInv ∧ ∃ t, step (given running [] [.ok]) = .next t :=
  ⟨running_wireInv, _, rfl⟩

/-- For each clause of the frame: an operation of that kind, ended and still busy. -/
theorem witness_FrameOfEveryOperation :
    (∃ t, exec (.setBacklight false) (given ready [] [.ok]) = .next t ∧ t.lineCount = ready.lineCount) ∧
    (∃ t, exec (.writeCommand 0x0F) (given ready [] (oks 6 [])) = .next t ∧ t.backlight = ready.backlight) ∧
    (∃ t, exec .clear (given ready [] (oks 12 [])) = .next t ∧ t.entryMode = ready.entryMode) ∧
    (∃ t, exec (.writeChar 0x07 true) (given ready [] (oks 6 [])) = .next t ∧ t.entryMode = ready.entryMode) ∧
    (∃ t, exec (.writeCommand 0x07) (given ready [] [.ok]) = .next t ∧ t.busy = true) ∧
    (∃ t, exec (.writeCommand 0x07) (given ready [] [.fail]) = .next t ∧ t.rsp ≠ some .ok ∧ t.phase = .failed) :=
  ⟨⟨_, rfl, rfl⟩, ⟨_, rfl, rfl⟩, ⟨_, rfl, rfl⟩, ⟨_, rfl, rfl⟩, ⟨_, rfl, rfl⟩, ⟨_, rfl, by decide, rfl⟩⟩

end Sys2Proof.Tests
end

section
/-! SUPPORT. INIT at any parameters (R85 to R91): what taking it starts, what its plan writes and leaves on the wire,
and what its commit records. -/

namespace Sys2Proof.Machine

/-- INIT with the transport set up and a line count of 1 or 2 is taken (R85): its plan starts from the fresh state
(R86). -/
theorem accept_init {s : State} {n : Byte} (hv : s.cfgValid = true) (hn : n = 1 ∨ n = 2) :
    accept (.init n) s =
      startOp (.init n) (initPlan s.config (blOf s.config.blInit) n) (freshState n s) := by
  have hl : lineCountOk n = true := by
    rcases hn with rfl | rfl <;> rfl
  simp [accept, acceptInit, hv, hl, State.bl]

@[simp] theorem writesOf_rawPhase_length (c : Config) (bl : Byte) : (writesOf (rawPhase c bl)).length = 12 := rfl

/-- INIT writes 36 bytes (R90): three for each of the four raw nibbles, six for each of the four commands. -/
@[simp] theorem writesOf_initPlan_length (c : Config) (bl n : Byte) : (writesOf (initPlan c bl n)).length = 36 := by
  simp [initPlan, logicalBytes, writesOf]

/-- The raw phase on the wire, all well, for an `INIT_NIBBLE` with the enable bit clear (R87). -/
theorem performed_rawPhase {c : Config} (bl : Byte) (h : c.initNibble.getLsbD 2 = false) :
    performed (rawPhase c bl) = (List.replicate 4 (wireNibble c (c.initNibble ||| bl))).flatten := by
  simp [rawPhase, initNibbleCount, List.replicate_succ, performed_nibbleCycle c c.initNibble bl h]

/-- The whole of INIT on the wire, all well, for an `INIT_NIBBLE` with the enable bit clear: the raw nibbles, the
four commands of R88, the settle hold of R89. -/
theorem performed_initPlan {c : Config} (backlight : Bool) (n : Byte) (h : c.initNibble.getLsbD 2 = false) :
    performed (initPlan c (blOf backlight) n) =
      (List.replicate 4 (wireNibble c (c.initNibble ||| blOf backlight))).flatten ++
        wireByte c 0x28 false backlight ++ wireByte c 0x0C false backlight ++
        wireByte c 0x01 false backlight ++ wireByte c 0x06 false backlight ++ [.delayed c.tInitSettle] := by
  have commands : performed (sendAll c (blOf backlight) (logicalBytes (.init n))) =
      wireByte c 0x28 false backlight ++ wireByte c 0x0C false backlight ++
        wireByte c 0x01 false backlight ++ wireByte c 0x06 false backlight := by
    rw [performed_sendAll]
    simp [logicalBytes, controlByte, initFunctionSet, initDisplayControl, initEntryMode, cmdFunctionSet,
      cmdDisplayControl, cmdEntryModeSet, cmdClearDisplay, flag2Line, flag5x8Dots, flag4BitMode, flagOn, flagLeft]
  have settle : performed [.delay c.tInitSettle] = [.delayed c.tInitSettle] := rfl
  rw [initPlan, performed_append, performed_append, performed_rawPhase _ h, commands, settle]
  simp only [List.append_assoc]

/-- The commit of INIT (R81, R91): READY, and the shadow registers at the values of R16 whatever they were before. -/
theorem commit_init (n : Byte) (s : State) :
    commit (.init n) s =
      { s with phase := .ready, functionSet := 0x08, displayControl := 0x04, entryMode := 0x02 } := by
  have bytes : controlBytes (.init n) = [0x28, 0x0C, 0x01, 0x06] := rfl
  simp [commit, commitPhase, bytes, shadowUpdate]

/-- Settles O20: the run of INIT's whole plan, then its commit. -/
theorem initCompletesAtAnyParameters : Obligations.InitCompletesAtAnyParameters := by
  intro s n rest hq hv hn ha bl
  have taken := accept_init hv hn
  have ran := exec_done (i := .init n) (s := s) (rest := rest) (by simp [taken]) (by simp [taken])
    (by simpa [taken] using ha)
  have wire := performed_initPlan s.config.blInit n hq
  rw [ran, taken, startOp_plan, wire, commit_init]
  rfl

end Sys2Proof.Machine
end

section
/-! SUPPORT. The wire invariant at reset (R27, R60). -/

namespace Sys2Proof.Machine

/-- A block just reset has written nothing and has nothing to write, so its wire invariant is what is asked of
`INIT_NIBBLE`. -/
theorem resetWith_wireInv {c : Config} (h : c.initNibble &&& 0x0E = 0) : (State.resetWith c).WireInv where
  nibble := h
  seen := by simp [State.resetWith]
  onPort := by simp [State.resetWith]
  planned := by simp [State.resetWith]

/-- Settles O58: the spec's `INIT_NIBBLE` 0x30 has the bits 1 to 3 clear. -/
theorem resetMeetsTheWireInvariant : Obligations.ResetMeetsTheWireInvariant :=
  resetWith_wireInv (c := Config.spec) (by decide)

end Sys2Proof.Machine
end

section
/-! SUPPORT. The invariant of the state (R25): the part of it that speaks of the registers, which is all that an
operation needs that is taken, refused or ended, and what each shared operation keeps. -/

namespace Sys2Proof.Machine

/-- The part of `State.Inv` that speaks of the registers of R10; the rest speaks of the sequencer (R19). -/
structure State.RegInv (s : State) : Prop where
  lineCount : s.lineCount ≠ 3
  readyLines : s.phase = .ready → s.lineCount ≠ 0
  entryMode : s.entryMode.toNat ≤ 0x03
  displayControl : s.displayControl.toNat ≤ 0x07
  functionSet : s.functionSet &&& ~~~0x1C = 0

theorem State.Inv.regs {s : State} (h : s.Inv) : s.RegInv := { h with }

/-- Where nothing is in progress the sequencer's part holds of itself. -/
theorem State.RegInv.inv_of_ended {s : State} (h : s.RegInv) (he : s.ended = true) : s.Inv := by
  obtain ⟨hb, hc, -, hpk, htx, hd⟩ := (ended_iff s).1 he
  exact { h with
    idle := fun _ => he
    taking := by simp [hpk]
    running := by simp [hb]
    initRuns := by simp [hc]
    othersRun := by simp [hc]
    port := by simp [htx]
    counting := by simp [hd] }

/-! ### Ending, refusing, resetting -/

theorem respond_inv {st : Status} {s : State} (h : s.RegInv) : (respond st s).Inv :=
  State.RegInv.inv_of_ended { h with } (respond_ended st s)

/-- FAILED asks less of the line count than READY does. -/
theorem State.RegInv.failed {s : State} (h : s.RegInv) : State.RegInv { s with phase := .failed } :=
  { h with readyLines := nofun }

theorem failEntry_inv {s : State} (h : s.RegInv) : (failEntry s).Inv := respond_inv h.failed

theorem resetWith_regInv (c : Config) : (State.resetWith c).RegInv := by
  constructor <;> simp [State.resetWith]

theorem resetBlock_inv (s : State) : (resetBlock s).Inv :=
  State.RegInv.inv_of_ended { resetWith_regInv s.config with } rfl

/-- Settles O53: after reset nothing is in progress and the registers are clear. -/
theorem resetMeetsTheInvariant : Obligations.ResetMeetsTheInvariant :=
  fun c => (resetWith_regInv c).inv_of_ended rfl

/-! ### The commit -/

/-- A recorded control byte leaves its flags alone in the register (R15). -/
theorem shadowUpdate_regInv {s : State} (h : s.RegInv) (b : Byte) : (shadowUpdate s b).RegInv := by
  rw [shadowUpdate_ranges]
  refine { h with entryMode := ?_, displayControl := ?_, functionSet := ?_ } <;> dsimp only <;> split
  · exact Nat.and_le_right
  · exact h.entryMode
  · exact Nat.and_le_right
  · exact h.displayControl
  · rw [BitVec.and_assoc, BitVec.and_not_self]; exact BitVec.and_zero
  · exact h.functionSet

theorem foldl_shadowUpdate_regInv (bs : List Byte) {s : State} (h : s.RegInv) :
    (bs.foldl shadowUpdate s).RegInv := by
  induction bs generalizing s with
  | nil => exact h
  | cons b bs ih => exact ih (shadowUpdate_regInv h b)

/-- The commit ends in READY only for INIT, which was accepted with a line count (R86). -/
theorem commit_regInv {op : Instr} {s : State} (h : s.RegInv) (hl : op.opcode = .init → s.lineCount ≠ 0) :
    (commit op s).RegInv := by
  have shadows := foldl_shadowUpdate_regInv (controlBytes op) h
  cases op
  case init n =>
    have lines := congrArg State.lineCount (foldl_shadowUpdate_frame (controlBytes (.init n)) s)
    exact { shadows with readyLines := fun _ => lines ▸ hl rfl }
  all_goals exact shadows

theorem commitCur_regInv {s : State} (h : s.RegInv) (hl : ∀ n, s.cur = some (.init n) → s.lineCount ≠ 0) :
    (commitCur s).RegInv := by
  unfold commitCur
  split
  · rename_i op hc
    refine commit_regInv h fun hi => ?_
    cases op with
    | init n => exact hl n hc
    | _ => cases hi
  · exact h

/-! ### Taking an operation -/

theorem startOp_inv {i : Instr} {p : List PlanEvent} {s : State} (h : s.RegInv)
    (hi : i.opcode = .init → s.phase = .uninit ∧ s.lineCount ≠ 0) (ho : i.opcode ≠ .init → s.phase = .ready) :
    (startOp i p s).Inv :=
  { h with
    idle := nofun
    taking := by simp
    running := by simp
    initRuns := by rintro n ⟨⟩; exact hi rfl
    othersRun := by rintro j ⟨⟩ hj; exact ho hj
    port := by simp
    counting := by simp }

theorem lineCountOk_iff (n : Byte) : lineCountOk n = true ↔ n = 1 ∨ n = 2 := by simp [lineCountOk]

theorem freshState_regInv {n : Byte} (hn : lineCountOk n = true) (s : State) :
    (freshState n s).RegInv ∧ (freshState n s).lineCount ≠ 0 := by
  rcases (lineCountOk_iff n).1 hn with rfl | rfl <;> exact ⟨by constructor <;> simp, by simp⟩

/-- Acceptance asks nothing of the sequencer's fields, since it writes them all. -/
theorem accept_inv (i : Instr) {s : State} (h : s.RegInv) : (accept i s).Inv := by
  rcases accept_cases i s with ⟨e, -, -⟩ | ⟨n, -, -, e⟩ | ⟨n, rfl, -, hn, e⟩ | ⟨on, rfl, hp, e⟩ | ⟨hi, -, hp, e⟩ <;>
    rw [e]
  · exact respond_inv h
  · exact respond_inv h
  · obtain ⟨hf, hl⟩ := freshState_regInv hn s
    exact startOp_inv hf (fun _ => ⟨rfl, hl⟩) (fun hi => absurd rfl hi)
  · exact startOp_inv { h with } nofun (fun _ => hp)
  · exact startOp_inv h (fun e => absurd e hi) (fun _ => hp)

/-! ### An operation in progress -/

/-- An operation in progress may stand anywhere in its plan, as long as the port and the delay counter belong to the
plan's head. -/
theorem State.Inv.at_plan {s : State} (h : s.Inv) (hb : s.busy = true) (hpk : s.packet = [])
    (tr : List WireEvent) (as : List Answer) {p : List PlanEvent} {tx : Option Byte} {d : Nat}
    (port : ∀ b, tx = some b → headWrite p = some b)
    (counting : d ≠ 0 → ∃ n rest, p = .delay n :: rest ∧ d ≤ n) :
    State.Inv { s with trace := tr, answers := as, plan := p, txPort := tx, delayLeft := d } :=
  { h with
    idle := fun hb' => absurd (hb.symm.trans hb') nofun
    taking := fun hpk' => absurd hpk hpk'
    port := port
    counting := counting }

/-- The inputs, the response port and the logs are no part of the invariant. -/
theorem State.Inv.with_inputs {s : State} (h : s.Inv) (rsp : Option Status) (rst cfgValid : Bool)
    (requests : List ReqWord) (answers : List Answer) :
    State.Inv { s with rsp := rsp, rst := rst, cfgValid := cfgValid, requests := requests, answers := answers } :=
  { h with }

theorem State.Inv.clearRsp {s : State} (h : s.Inv) : s.clearRsp.Inv := h.with_inputs _ _ _ _ _

theorem proceed_inv {s : State} (h : s.Inv) : (proceed s).Inv := by
  rcases proceed_cases s with ⟨-, e⟩ | ⟨rest, -, -, e⟩ | ⟨rest, done, b, left, -, -, -, e⟩ |
    ⟨done, b, left, hb, hp, e⟩ <;> rw [e]
  · exact h
  · exact respond_inv (commitCur_regInv { h.regs with } fun n hc => (h.initRuns n hc).2)
  · exact State.RegInv.inv_of_ended { h.regs.failed with } rfl
  · have hpk : s.packet = [] := by
      by_contra hpk
      obtain ⟨-, -, hnil, -⟩ := h.taking hpk
      simp [hnil] at hp
    exact h.at_plan hb hpk _ _ (by simp [headWrite]) (by simp)

theorem exec_inv {i : Instr} {s t : State} (he : exec i s = .next t) (h : s.RegInv) : t.Inv := by
  rw [exec_eq_proceed] at he
  cases he
  exact proceed_inv (accept_inv i h)

/-! ### Taking words -/

/-- The words of an unfinished packet are taken: the block is busy with them from the first one on. -/
theorem State.Inv.take_words {s : State} (h : s.Inv) (hb : s.busy = false ∨ s.packet ≠ [])
    (rsp : Option Status) (left : List ReqWord) {ws : List ReqWord} (hws : ws ≠ [])
    (hd : decodePacket (s.packet ++ ws) = .incomplete) :
    State.Inv { s with busy := true, packet := s.packet ++ ws, requests := left, rsp := rsp } := by
  have quiet : s.cur = none ∧ s.plan = [] ∧ s.txPort = none ∧ s.delayLeft = 0 := by
    rcases hb with hb | hpk
    · obtain ⟨-, hc, hp, -, htx, hdl⟩ := (ended_iff s).1 (h.idle hb)
      exact ⟨hc, hp, htx, hdl⟩
    · obtain ⟨-, hc, hp, htx, hdl, -⟩ := h.taking hpk
      exact ⟨hc, hp, htx, hdl⟩
  obtain ⟨hc, hp, htx, hdl⟩ := quiet
  exact { h with
    idle := nofun
    taking := fun _ => ⟨rfl, hc, hp, htx, hdl, hd⟩
    running := fun _ hnil => absurd (List.append_eq_nil_iff.1 hnil).2 hws }

theorem step_inv {s t : State} (h : s.Inv) (hs : step s = .next t) : t.Inv := by
  rcases step_cases hs with ⟨-, rfl⟩ | ⟨-, -, -, -, rfl⟩ | ⟨-, hb, taken⟩
  · exact resetBlock_inv s
  · exact proceed_inv h.clearRsp
  · rcases taken with ⟨i, rest, -, he⟩ | ⟨w, rest, -, rfl⟩ | ⟨hd, rfl⟩
    · exact exec_inv he { h.regs with }
    · exact respond_inv { h.regs with }
    · cases hq : s.requests with
      | nil => simpa using h.with_inputs none s.rst s.cfgValid [] s.answers
      | cons w ws => simpa using h.take_words hb none [] (by simp) (hq ▸ hd)

/-! ### The small-step view -/

theorem tickDelay_inv {n : Nat} {rest : List PlanEvent} {s : State} (h : s.Inv) (hb : s.busy = true)
    (hpk : s.packet = []) (hp : s.plan = .delay n :: rest) : (tickDelay n rest s).Inv := by
  have finished : ∀ e, (finishEvent e rest s).Inv := fun e => h.at_plan hb hpk _ _ nofun (absurd rfl)
  unfold tickDelay
  split
  · exact finished _
  · exact h.at_plan hb hpk _ _ h.port fun _ => ⟨_, _, hp, le_rfl⟩
  · exact finished _
  · rename_i k _ hd
    obtain ⟨m, r, e, hle⟩ := h.counting (by simp [hd])
    exact h.at_plan hb hpk _ _ h.port fun _ => ⟨m, r, e, by omega⟩

theorem tickWrite_inv {b : Byte} {rest : List PlanEvent} {s : State} (h : s.Inv) (hb : s.busy = true)
    (hpk : s.packet = []) (hp : s.plan = .write b :: rest) : (tickWrite b rest s).Inv := by
  unfold tickWrite
  split
  · exact h.at_plan hb hpk _ _ (by simp [hp, headWrite]) h.counting
  · exact h
  · exact h.at_plan hb hpk _ _ nofun (absurd rfl)
  · exact failEntry_inv { h.regs with }

theorem tickPlan_inv {s : State} (h : s.Inv) (hb : s.busy = true) (hpk : s.packet = []) : (tickPlan s).Inv := by
  unfold tickPlan
  split
  · exact respond_inv (commitCur_regInv h.regs fun n hc => (h.initRuns n hc).2)
  · exact tickDelay_inv h hb hpk ‹_›
  · exact tickWrite_inv h hb hpk ‹_›

theorem tickWord_inv {s : State} (h : s.Inv) (hb : s.busy = false ∨ s.packet ≠ []) : (tickWord s).Inv := by
  unfold tickWord
  split
  · exact h
  · dsimp only
    split
    · exact accept_inv _ { h.regs with }
    · exact respond_inv { h.regs with }
    · exact h.take_words hb _ _ (by simp) ‹_›

theorem tick_inv {s : State} (h : s.Inv) : (tick s).Inv := by
  unfold tick
  split
  · exact resetBlock_inv s
  · split
    · rename_i hb
      obtain ⟨hb, hpk⟩ : s.busy = true ∧ s.packet = [] := by simpa using hb
      exact tickPlan_inv h.clearRsp hb hpk
    · rename_i hb
      refine tickWord_inv h.clearRsp ?_
      cases e : s.busy <;> simp_all

/-- Settles O54: a step, a tick and a move of the environment each by the lemma of its own. -/
theorem stepKeepsTheInvariant : Obligations.StepKeepsTheInvariant := by
  refine ⟨fun _ _ => step_inv, fun _ => tick_inv, fun s m h => ?_⟩
  cases m <;> exact h.with_inputs _ _ _ _ _

/-- Settles O55: reset meets the invariant and every move keeps it. -/
theorem reachableStatesMeetTheInvariant : Obligations.ReachableStatesMeetTheInvariant := by
  intro c s h
  induction h with
  | reset => exact resetMeetsTheInvariant c
  | step s t _ hs ih => exact step_inv ih hs
  | tick s _ ih => exact tick_inv ih
  | host s m _ ih => exact stepKeepsTheInvariant.2.2 s m ih

end Sys2Proof.Machine
end

section
/-! SUPPORT. The two low bits of interest in every byte of a plan: bit 1, which nothing sets, and bit 3, the backlight
(R60, R76), from the nibble cycle up to the plan of any operation. -/

namespace Sys2Proof.Machine

theorem blOf_bits (bl : Bool) : (blOf bl).getLsbD 1 = false ∧ (blOf bl).getLsbD 3 = bl := by
  cases bl <;> simp [blOf, blBit]

/-- A nibble cycle passes bit 1 of its nibble on, and merges the backlight into bit 3 (R72). -/
theorem nibbleCycle_bits {c : Config} {n w : Byte} {bl : Bool} (h : .write w ∈ nibbleCycle c n (blOf bl)) :
    w.getLsbD 1 = n.getLsbD 1 ∧ w.getLsbD 3 = (n.getLsbD 3 || bl) := by
  rw [← mem_writesOf, writesOf_nibbleCycle] at h
  simp only [List.mem_cons, List.not_mem_nil, or_false] at h
  rcases h with rfl | rfl | rfl <;> cases bl <;> simp [blOf, blBit, enBit]

/-- The nibbles of a logical byte leave both bits clear (R74). -/
theorem nibble_bits (b : Byte) (m : Bool) :
    (highNibble b (modeOf m)).getLsbD 1 = false ∧ (highNibble b (modeOf m)).getLsbD 3 = false ∧
    (lowNibble b (modeOf m)).getLsbD 1 = false ∧ (lowNibble b (modeOf m)).getLsbD 3 = false := by
  cases m <;> simp [highNibble, lowNibble, modeOf, rsBit]

theorem sendByte_bits {c : Config} {b w : Byte} {m bl : Bool} (h : .write w ∈ sendByte c b (modeOf m) (blOf bl)) :
    w.getLsbD 1 = false ∧ w.getLsbD 3 = bl := by
  obtain ⟨h₁, h₃, l₁, l₃⟩ := nibble_bits b m
  rcases List.mem_append.1 h with h | h <;> obtain ⟨w₁, w₃⟩ := nibbleCycle_bits h
  · exact ⟨w₁.trans h₁, by rw [w₃, h₃, Bool.false_or]⟩
  · exact ⟨w₁.trans l₁, by rw [w₃, l₃, Bool.false_or]⟩

theorem sendAll_bits {c : Config} {bl : Bool} {xs : List LogicalByte} {w : Byte}
    (h : .write w ∈ sendAll c (blOf bl) xs) : w.getLsbD 1 = false ∧ w.getLsbD 3 = bl := by
  induction xs with
  | nil => cases h
  | cons x xs ih => exact (List.mem_append.1 h).elim sendByte_bits ih

/-- The raw nibbles of INIT are sent as they are (R87). -/
theorem rawPhase_bits {c : Config} {bl : Bool} {w : Byte} (h : .write w ∈ rawPhase c (blOf bl)) :
    w.getLsbD 1 = c.initNibble.getLsbD 1 ∧ w.getLsbD 3 = (c.initNibble.getLsbD 3 || bl) := by
  obtain ⟨cycle, hc, hw⟩ := List.mem_flatten.1 h
  exact nibbleCycle_bits (List.eq_of_mem_replicate hc ▸ hw)

/-- Of all planned bytes only INIT's raw nibbles can have bit 1 set, or bit 3 set with the backlight off, and they
take that from `INIT_NIBBLE` (R60, R76). -/
theorem accept_bits {i : Instr} {s : State} {w : Byte} (h : .write w ∈ (accept i s).plan) :
    (s.config.initNibble.getLsbD 1 = false → w.getLsbD 1 = false) ∧
    (s.config.initNibble.getLsbD 3 = false → w.getLsbD 3 = (accept i s).backlight) := by
  rcases accept_cases i s with ⟨e, -, -⟩ | ⟨n, -, -, e⟩ | ⟨n, -, -, -, e⟩ | ⟨on, -, -, e⟩ | ⟨-, -, -, e⟩ <;>
    rw [e] at h ⊢
  · cases h
  · cases h
  · rw [startOp_plan, initPlan, List.mem_append, List.mem_append] at h
    rcases h with (h | h) | h
    · obtain ⟨h₁, h₃⟩ := rawPhase_bits h
      exact ⟨fun q => h₁.trans q, fun q => by rw [h₃, q, Bool.false_or]; rfl⟩
    · obtain ⟨h₁, h₃⟩ := sendAll_bits h
      exact ⟨fun _ => h₁, fun _ => h₃⟩
    · simp at h
  · obtain rfl : w = blOf on := by simpa using h
    exact ⟨fun _ => (blOf_bits on).1, fun _ => (blOf_bits on).2⟩
  · obtain ⟨h₁, h₃⟩ := sendAll_bits h
    exact ⟨fun _ => h₁, fun _ => h₃⟩

end Sys2Proof.Machine
end

section
/-! SUPPORT. The invariant of the wire (R60, R76), kept by each shared operation and so by every step. -/

namespace Sys2Proof.Machine

/-- The bytes a list of wire events put or tried to put on the port have bit 1 clear. -/
def QuietTrace (tr : List WireEvent) : Prop := ∀ e ∈ tr, ∀ b, e.byte = some b → b.getLsbD 1 = false

theorem QuietTrace.append {tr more : List WireEvent} (h : QuietTrace tr) (hm : QuietTrace more) :
    QuietTrace (tr ++ more) :=
  fun e he => (List.mem_append.1 he).elim (h e) (hm e)

theorem quietTrace_singleton {e : WireEvent} (h : ∀ b, e.byte = some b → b.getLsbD 1 = false) : QuietTrace [e] := by
  intro e' he
  rwa [List.mem_singleton.1 he]

/-- What a plan leaves on the wire is what it had to write. -/
theorem quietTrace_performed {p : List PlanEvent} (h : ∀ b, .write b ∈ p → b.getLsbD 1 = false) :
    QuietTrace (performed p) := by
  intro e he b hb
  obtain ⟨x, hx, rfl⟩ := List.mem_map.1 he
  cases x with
  | write b' => cases hb; exact h _ hx
  | delay n => cases hb

/-- A write that reset withdrew was the one on the port. -/
theorem withdrawnWrite_quiet {s : State} (h : ∀ b, s.txPort = some b → b.getLsbD 1 = false) :
    QuietTrace (withdrawnWrite s) := by
  unfold withdrawnWrite
  split
  · rename_i b hb
    split
    · exact quietTrace_singleton fun b' e => by cases e; exact h b hb
    · nofun
  · nofun

/-- A state with nothing on the port and nothing planned has only its trace to answer for. -/
theorem wireInv_of_idle {t : State} (hn : t.config.initNibble &&& 0x0E = 0) (hs : QuietTrace t.trace)
    (htx : t.txPort = none) (hp : t.plan = []) : t.WireInv where
  nibble := hn
  seen := hs
  onPort := by simp [htx]
  planned := by simp [hp]

theorem respond_wireInv {st : Status} {s : State} (h : s.WireInv) : (respond st s).WireInv :=
  wireInv_of_idle h.nibble h.seen rfl rfl

theorem resetBlock_wireInv {s : State} (h : s.WireInv) : (resetBlock s).WireInv :=
  wireInv_of_idle h.nibble (QuietTrace.append h.seen (withdrawnWrite_quiet h.onPort)) rfl rfl

/-- An `INIT_NIBBLE` without the bits 1 to 3 has bits 1 and 3 clear. -/
theorem quiet_nibble_bits {n : Byte} (h : n &&& 0x0E = 0) : n.getLsbD 1 = false ∧ n.getLsbD 3 = false := by
  have h₁ := congrArg (BitVec.getLsbD · 1) h
  have h₃ := congrArg (BitVec.getLsbD · 3) h
  simpa using And.intro h₁ h₃

/-- Acceptance puts nothing on the port. -/
theorem accept_txPort (i : Instr) (s : State) : (accept i s).txPort = none := by
  rcases accept_cases i s with ⟨e, -, -⟩ | ⟨n, -, -, e⟩ | ⟨n, -, -, -, e⟩ | ⟨on, -, -, e⟩ | ⟨-, -, -, e⟩ <;> simp [e]

theorem accept_wireInv (i : Instr) {s : State} (h : s.WireInv) : (accept i s).WireInv := by
  obtain ⟨-, htr, hcfg, -⟩ := accept_frame i s
  obtain ⟨n₁, n₃⟩ := quiet_nibble_bits h.nibble
  refine { nibble := hcfg ▸ h.nibble, seen := htr ▸ h.seen, onPort := by simp [accept_txPort], planned := ?_ }
  intro w hw
  obtain ⟨h₁, h₃⟩ := accept_bits hw
  exact ⟨h₁ n₁, h₃ n₃⟩

theorem proceed_wireInv {s : State} (h : s.WireInv) : (proceed s).WireInv := by
  have quiet : ∀ b, .write b ∈ s.plan → b.getLsbD 1 = false := fun b hb => (h.planned b hb).1
  rcases proceed_cases s with ⟨-, e⟩ | ⟨rest, -, -, e⟩ | ⟨rest, done, b, left, -, -, hp, e⟩ |
    ⟨done, b, left, -, hp, e⟩ <;> rw [e]
  · exact h
  · rw [commitCur_frame]
    exact wireInv_of_idle h.nibble (QuietTrace.append h.seen (quietTrace_performed quiet)) rfl rfl
  all_goals
    simp only [hp, List.mem_append, List.mem_cons] at quiet
    have seen := QuietTrace.append h.seen (quietTrace_performed fun b' hb' => quiet b' (.inl hb'))
    have head : b.getLsbD 1 = false := quiet b (.inr (.inl rfl))
  · have failed : QuietTrace [.writeFailed b] := quietTrace_singleton fun b' e => by cases e; exact head
    exact wireInv_of_idle h.nibble (by simpa [State.after] using seen.append failed) rfl rfl
  · exact
      { nibble := h.nibble
        seen := seen
        onPort := by rintro b' ⟨⟩; exact head
        planned := fun b' hb' => h.planned b' (hp ▸ List.mem_append_right done hb') }

/-- Settles O57: a reset cycle, the operation in progress, or the packet taken, each by its own lemma. -/
theorem stepKeepsTheWireInvariant : Obligations.StepKeepsTheWireInvariant := by
  intro s t h hs
  rcases step_cases hs with ⟨-, rfl⟩ | ⟨-, -, -, -, rfl⟩ | ⟨-, -, ⟨i, rest, -, he⟩ | ⟨w, rest, -, rfl⟩ | ⟨-, rfl⟩⟩
  · exact resetBlock_wireInv h
  · exact proceed_wireInv { h with }
  · rw [exec_eq_proceed] at he
    cases he
    exact proceed_wireInv (accept_wireInv i { h with })
  · exact respond_wireInv { h with }
  · exact { h with }

end Sys2Proof.Machine
end

section
/-! SUPPORT. The reset values and the status outputs (R27, R24). -/

namespace Sys2Proof.Machine

/-- Settles O44: each field is the reset value by definition. -/
theorem resetValues : Obligations.ResetValues := ⟨rfl, rfl, rfl, rfl, rfl, rfl, rfl, rfl, rfl, rfl⟩

/-- A register whose value fits `k` bits is its low `k` bits, padded with zeros. -/
theorem setWidth_extractLsb'_low {k : Nat} {r : Byte} (h : r.toNat < 2 ^ k) :
    (r.extractLsb' 0 k).setWidth 8 = r := by
  apply BitVec.eq_of_toNat_eq
  rw [BitVec.toNat_setWidth, BitVec.extractLsb'_toNat, Nat.shiftRight_zero, Nat.mod_eq_of_lt h,
    Nat.mod_eq_of_lt r.isLt]

/-- A register with no bit outside the bits 4 to 2 is those bits, shifted back. -/
theorem setWidth_extractLsb'_flags {r : Byte} (h : r &&& ~~~0x1C = 0) :
    ((r.extractLsb' 2 3).setWidth 8) <<< 2 = r := by
  apply BitVec.eq_of_getLsbD_eq
  intro i hi
  have outside := congrArg (BitVec.getLsbD · i) h
  clear h
  interval_cases i <;> simp_all

/-- Settles O60: the widths of the pins are what the invariant leaves of each register. -/
theorem statusOutputsShowTheRegisters : Obligations.StatusOutputsShowTheRegisters := by
  intro s h
  refine ⟨setWidth_extractLsb'_low (Nat.lt_succ_of_le h.entryMode),
    setWidth_extractLsb'_low (Nat.lt_succ_of_le h.displayControl), setWidth_extractLsb'_flags h.functionSet, rfl, ?_⟩
  simp only [State.outputs]
  refine ⟨?_, ?_, ?_⟩
  · cases s.backlight <;> decide
  · cases s.busy <;> decide
  · cases s.phase <;> decide

end Sys2Proof.Machine
end

section
/-! SUPPORT. Operations that complete (R91, R95, R98), and the shadow registers by byte class (R15). -/

namespace Sys2Proof.Machine

set_option maxRecDepth 100000 in
/-- The flags a control byte leaves, as what is over its base value, byte by byte of each class (V7). -/
theorem shadow_flags (b : Byte) :
    (0x04 ≤ b.toNat → b.toNat < 0x08 → b &&& 0x03 = BitVec.ofNat 8 (b.toNat - 0x04)) ∧
    (0x08 ≤ b.toNat → b.toNat < 0x10 → b &&& 0x07 = BitVec.ofNat 8 (b.toNat - 0x08)) ∧
    (0x20 ≤ b.toNat → b.toNat < 0x40 → b &&& 0x1C = BitVec.ofNat 8 ((b.toNat - 0x20) / 4 * 4)) := by
  have key : ∀ n : Fin 256,
      let b : Byte := BitVec.ofFin n
      (0x04 ≤ b.toNat → b.toNat < 0x08 → b &&& 0x03 = BitVec.ofNat 8 (b.toNat - 0x04)) ∧
      (0x08 ≤ b.toNat → b.toNat < 0x10 → b &&& 0x07 = BitVec.ofNat 8 (b.toNat - 0x08)) ∧
      (0x20 ≤ b.toNat → b.toNat < 0x40 → b &&& 0x1C = BitVec.ofNat 8 ((b.toNat - 0x20) / 4 * 4)) := by decide
  exact key b.toFin

/-- A byte outside the three ranges is recorded nowhere. -/
theorem shadowUpdate_eq_self (s : State) {b : Byte} (h₁ : ¬ (0x04 ≤ b.toNat ∧ b.toNat < 0x08))
    (h₂ : ¬ (0x08 ≤ b.toNat ∧ b.toNat < 0x10)) (h₃ : ¬ (0x20 ≤ b.toNat ∧ b.toNat < 0x40)) :
    shadowUpdate s b = s := by
  rw [shadowUpdate_ranges, if_neg h₁, if_neg h₂, if_neg h₃]

/-- Settles O28: the ranges of the three patterns and the flags in them. -/
theorem shadowUpdateByByteClass : Obligations.ShadowUpdateByByteClass := by
  intro s b
  obtain ⟨f₁, f₂, f₃⟩ := shadow_flags b
  refine ⟨fun h => ?_, fun h h' => ?_, fun h h' => ?_, fun h h' => ?_, fun h h' => ?_, fun h => ?_⟩
  · exact shadowUpdate_eq_self s (by omega) (by omega) (by omega)
  · rw [shadowUpdate_ranges, if_pos ⟨h, h'⟩, if_neg (by omega), if_neg (by omega), f₁ h h']
  · rw [shadowUpdate_ranges, if_neg (by omega), if_pos ⟨h, h'⟩, if_neg (by omega), f₂ h h']
  · exact shadowUpdate_eq_self s (by omega) (by omega) (by omega)
  · rw [shadowUpdate_ranges, if_neg (by omega), if_neg (by omega), if_pos ⟨h, h'⟩, f₃ h h']
  · exact shadowUpdate_eq_self s (by omega) (by omega) (by omega)

/-- In READY an operation other than INIT and SET_BACKLIGHT, every write answered `ok`: its logical bytes on the wire
in order, then the shadow registers of its commit; nothing else changes (R80, R81). -/
theorem exec_ready_done {i : Instr} {s : State} {rest : List Answer} (hp : s.phase = .ready)
    (h₁ : i.opcode ≠ .init) (h₂ : i.opcode ≠ .setBacklight)
    (ha : s.answers = oks (6 * (logicalBytes i).length) rest) :
    exec i s = .next
      { s.after ((logicalBytes i).map fun x => wireByte s.config x.byte x.data s.backlight).flatten rest .ok with
        entryMode := (commit i s).entryMode, displayControl := (commit i s).displayControl,
        functionSet := (commit i s).functionSet } := by
  have taken := accept_ready hp h₁ h₂
  have wire := performed_sendAll s.config s.backlight (logicalBytes i)
  have committed := fun tr => commit_congr i s
    { startOp i (sendAll s.config (blOf s.backlight) (logicalBytes i)) s with
      trace := tr, answers := rest, plan := [], delayLeft := 0 } rfl rfl rfl rfl
  rw [exec_done (rest := rest) (by simp [taken]) (by simp [taken]) (by simpa [taken] using ha), taken,
    startOp_plan, wire, committed, commit_phase, if_neg h₁]
  rfl

/-- Settles O19: the spec's parameters are a case of O20. -/
theorem initCompletes : Obligations.InitCompletes := by
  intro s n rest hc hv hn ha
  rw [initCompletesAtAnyParameters s n rest (by rw [hc]; rfl) hv hn ha, hc]
  rfl

/-- Settles O24: one logical byte, and the shadow update of it. -/
theorem writeCommandCompletes : Obligations.WriteCommandCompletes := by
  intro s b rest hp ha
  have committed : commit (.writeCommand b) s = shadowUpdate s b := rfl
  rw [exec_ready_done (i := .writeCommand b) hp nofun nofun ha, committed, shadowUpdate_ranges]
  simp [logicalBytes, controlByte]

/-- Settles O25: one logical byte, and for a control byte the shadow update of it. -/
theorem writeCharCompletes : Obligations.WriteCharCompletes := by
  intro s c m rest hp ha
  rw [exec_ready_done (i := .writeChar c m) hp nofun nofun ha]
  cases m with
  | true =>
    have committed : commit (.writeChar c true) s = s := rfl
    simp [logicalBytes, committed, State.after]
  | false =>
    have committed : commit (.writeChar c false) s = shadowUpdate s c := rfl
    rw [committed, shadowUpdate_ranges]
    simp [logicalBytes]

end Sys2Proof.Machine
end

section
/-! SUPPORT. What executing an operation does to the phase (R17), and what it leaves unchanged. -/

namespace Sys2Proof.Machine

/-- How far an operation got in one go: OK with the phase its commit leaves, FAILED with TransportError, or still
waiting in the phase it runs in (R17, R80). -/
theorem proceed_phase {i : Instr} {s : State} (hb : s.busy = true) (hc : s.cur = some i) :
    ((proceed s).phase = (if i.opcode = .init then .ready else s.phase) ∧ (proceed s).rsp = some .ok) ∨
    ((proceed s).phase = .failed ∧ (proceed s).rsp = some .transportError) ∨
    ((proceed s).phase = s.phase ∧ (proceed s).busy = true) := by
  rcases proceed_cases s with ⟨hb', -⟩ | ⟨rest, -, -, e⟩ | ⟨rest, done, b, left, -, -, -, e⟩ |
    ⟨done, b, left, -, -, e⟩
  · exact absurd (hb.symm.trans hb') nofun
  · refine .inl (e ▸ ⟨?_, rfl⟩)
    simp [commitCur, hc, commit_phase]
  · exact .inr (.inl (e ▸ ⟨rfl, rfl⟩))
  · exact .inr (.inr (e ▸ ⟨rfl, hb⟩))

/-- The ends of a step of INIT (R17): it waits in UNINIT, or ends in READY or FAILED. -/
def InitEnd (t : State) : Prop :=
  (t.phase = .uninit ∧ t.busy = true) ∨ (t.phase = .ready ∧ t.rsp = some .ok) ∨
    (t.phase = .failed ∧ t.rsp = some .transportError)

theorem proceed_initEnd {s : State} {n : Byte} (hb : s.busy = true) (hc : s.cur = some (.init n))
    (hp : s.phase = .uninit) : InitEnd (proceed s) := by
  rcases proceed_phase hb hc with h | h | ⟨h, hb'⟩
  · exact .inr (.inl h)
  · exact .inr (.inr h)
  · exact .inl ⟨h.trans hp, hb'⟩

/-- Every other operation stays in the phase it runs in, or fails. -/
theorem proceed_phase_of_not_init {i : Instr} {s : State} (hb : s.busy = true) (hc : s.cur = some i)
    (hi : i.opcode ≠ .init) :
    (proceed s).phase = s.phase ∨ ((proceed s).phase = .failed ∧ (proceed s).rsp = some .transportError) := by
  rcases proceed_phase hb hc with ⟨h, -⟩ | h | ⟨h, -⟩
  · exact .inl (h.trans (if_neg hi))
  · exact .inr h
  · exact .inl h

/-- Executing an operation: it is refused and neither the phase nor the trace changes; or it is accepted in READY and
stays there or fails; or it is an INIT that was accepted (R17, R85, R123). -/
theorem exec_phase {i : Instr} {s t : State} (h : exec i s = .next t) :
    (t.phase = s.phase ∧ t.trace = s.trace) ∨
    (i.opcode ≠ .init ∧ s.phase = .ready ∧
      (t.phase = .ready ∨ (t.phase = .failed ∧ t.rsp = some .transportError))) ∨
    (∃ n, i = .init n ∧ s.cfgValid = true ∧ (n = 1 ∨ n = 2) ∧ InitEnd t) := by
  rw [exec_eq_proceed] at h
  cases h
  rcases accept_cases i s with ⟨e, -, -⟩ | ⟨n, -, -, e⟩ | ⟨n, rfl, hv, hn, e⟩ | ⟨on, rfl, hp, e⟩ | ⟨hi, -, hp, e⟩ <;>
    rw [e]
  · exact .inl ⟨rfl, rfl⟩
  · exact .inl ⟨rfl, rfl⟩
  · exact .inr (.inr ⟨n, rfl, hv, (lineCountOk_iff n).1 hn, proceed_initEnd rfl rfl rfl⟩)
  · refine .inr (.inl ⟨nofun, hp, ?_⟩)
    exact hp ▸ proceed_phase_of_not_init (i := .setBacklight on) rfl rfl nofun
  · refine .inr (.inl ⟨hi, hp, ?_⟩)
    exact hp ▸ proceed_phase_of_not_init rfl rfl hi

/-! ### The phase over a step -/

/-- Words that do not end their packet begin a DISPLAY_STRING, whatever follows them (R57). -/
theorem decodePacket_of_incomplete {ws more rest : List ReqWord} {i : Instr} (hne : ws ≠ [])
    (h : decodePacket ws = .incomplete) (hd : decodePacket (ws ++ more) = .packet i rest) :
    i.opcode = .displayString := by
  obtain ⟨w, ws, rfl⟩ := List.exists_cons_of_ne_nil hne
  simp only [List.cons_append, decodePacket] at h hd
  cases hw : decodeHeader w with
  | none => simp [hw] at h
  | some header =>
    cases header with
    | whole j => simp [hw] at h
    | string l pos =>
      simp only [hw] at hd
      split at hd
      · cases hd
      · split at hd <;> cases hd
        rfl

/-- An INIT is one word (R51), so a block in the middle of a packet is not taking one. -/
theorem idle_of_init {s : State} {n : Byte} {rest : List ReqWord} (h : s.Inv)
    (hb : s.busy = false ∨ s.packet ≠ [])
    (hd : decodePacket (s.packet ++ s.requests) = .packet (.init n) rest) : s.busy = false := by
  refine hb.resolve_right fun hpk => ?_
  obtain ⟨-, -, -, -, -, hinc⟩ := h.taking hpk
  exact absurd (decodePacket_of_incomplete hpk hinc hd) nofun

/-- Settles O41: over a reset cycle, the operation in progress, and the packet taken. -/
theorem phaseTransitionsOfAStep : Obligations.PhaseTransitionsOfAStep := by
  intro s t h hs
  rcases step_cases hs with ⟨hr, rfl⟩ | ⟨-, hb, -, ⟨i, hc⟩, rfl⟩ |
    ⟨-, hb, ⟨i, rest, hd, he⟩ | ⟨w, rest, -, rfl⟩ | ⟨-, rfl⟩⟩
  · exact .inl ⟨hr, rfl⟩
  · by_cases hi : ∃ n, i = .init n
    · obtain ⟨n, rfl⟩ := hi
      exact .inr (.inr (.inr ⟨.inl ⟨n, hc⟩, proceed_initEnd hb hc (h.initRuns n hc).1⟩))
    · have hi : i.opcode ≠ .init := by cases i <;> simp_all [Instr.opcode]
      rcases proceed_phase_of_not_init (s := s.clearRsp) hb hc hi with hp | hf
      · exact .inr (.inl hp)
      · exact .inr (.inr (.inl ⟨h.othersRun i hc hi, hf⟩))
  · rcases exec_phase he with ⟨hp, -⟩ | ⟨-, hp, hp' | hf⟩ | ⟨n, rfl, hv, hn, hend⟩
    · exact .inr (.inl hp)
    · exact .inr (.inl (hp'.trans hp.symm))
    · exact .inr (.inr (.inl ⟨hp, hf⟩))
    · exact .inr (.inr (.inr ⟨.inr ⟨n, rest, idle_of_init h hb hd, hd, hv, hn⟩, hend⟩))
  · exact .inr (.inl rfl)
  · exact .inr (.inl rfl)

/-- In FAILED nothing is in progress (R17). -/
theorem State.Inv.cur_of_failed {s : State} (h : s.Inv) (hf : s.phase = .failed) : s.cur = none := by
  cases hc : s.cur with
  | none => rfl
  | some i =>
    cases i with
    | init n => exact absurd (hf.symm.trans (h.initRuns n hc).1) nofun
    | _ => exact absurd (hf.symm.trans (h.othersRun _ hc nofun)) nofun

/-- Settles O42: in FAILED no operation is in progress and none but INIT is accepted. -/
theorem failedIsLeftOnlyByInitOrReset : Obligations.FailedIsLeftOnlyByInitOrReset := by
  intro s t h hf hs hchange
  rcases step_cases hs with ⟨hr, -⟩ | ⟨-, -, -, ⟨i, hc⟩, -⟩ |
    ⟨-, hb, ⟨i, rest, hd, he⟩ | ⟨w, rest, -, rfl⟩ | ⟨-, rfl⟩⟩
  · exact .inl hr
  · exact absurd (hc.symm.trans (h.cur_of_failed hf)) nofun
  · rcases exec_phase he with ⟨hp, htr⟩ | ⟨-, hp, -⟩ | ⟨n, rfl, hv, hn, -⟩
    · exact absurd hchange (by simp [hp, hf, htr])
    · exact absurd (hf.symm.trans hp) nofun
    · exact .inr ⟨n, rest, idle_of_init h hb hd, hd, hv, hn⟩
  · exact absurd hchange (by simp [hf])
  · exact absurd hchange (by simp [hf])

/-! ### What an operation leaves unchanged -/

/-- The three shadow registers of `t` are those of `s` (R14). -/
def SameShadows (t s : State) : Prop :=
  t.entryMode = s.entryMode ∧ t.displayControl = s.displayControl ∧ t.functionSet = s.functionSet

/-- Running a plan leaves the parameters, the inputs, the counter, the line count and the backlight; it takes answers
from the front and adds to the trace at the end. -/
theorem proceed_frame (s : State) :
    (proceed s).config = s.config ∧ (proceed s).rst = s.rst ∧ (proceed s).cfgValid = s.cfgValid ∧
    (proceed s).requests = s.requests ∧ (proceed s).freeCount = s.freeCount ∧
    (∃ used, s.answers = used ++ (proceed s).answers) ∧ (∃ tr, (proceed s).trace = s.trace ++ tr) ∧
    (proceed s).lineCount = s.lineCount ∧ (proceed s).backlight = s.backlight := by
  rcases proceed_cases s with ⟨-, e⟩ | ⟨rest, -, hu, e⟩ | ⟨rest, done, b, left, -, hu, -, e⟩ |
    ⟨done, b, left, -, -, e⟩ <;> rw [e]
  · exact ⟨rfl, rfl, rfl, rfl, rfl, ⟨[], rfl⟩, ⟨[], by simp⟩, rfl, rfl⟩
  · rw [commitCur_frame]
    exact ⟨rfl, rfl, rfl, rfl, rfl, hu, ⟨_, rfl⟩, rfl, rfl⟩
  · exact ⟨rfl, rfl, rfl, rfl, rfl, hu, ⟨_, rfl⟩, rfl, rfl⟩
  · exact ⟨rfl, rfl, rfl, rfl, rfl, ⟨s.answers, by simp⟩, ⟨_, rfl⟩, rfl, rfl⟩

/-- Running a plan writes the shadow registers only when it comes to the commit, and then as the commit does. -/
theorem proceed_shadows {i : Instr} {s : State} (hc : s.cur = some i) :
    SameShadows (proceed s) s ∨
    ((proceed s).rsp = some .ok ∧ (proceed s).busy = false ∧ SameShadows (proceed s) (commit i s)) := by
  rcases proceed_cases s with ⟨-, e⟩ | ⟨rest, -, hu, e⟩ | ⟨rest, done, b, left, -, hu, -, e⟩ |
    ⟨done, b, left, -, -, e⟩ <;> rw [e]
  · exact .inl ⟨rfl, rfl, rfl⟩
  · have committed := commitCur_congr i s
      { s with trace := s.trace ++ performed s.plan, answers := rest, plan := [], delayLeft := 0 } hc rfl rfl rfl rfl
    refine .inr ⟨rfl, rfl, ?_⟩
    rw [committed]
    exact ⟨rfl, rfl, rfl⟩
  · exact .inl ⟨rfl, rfl, rfl⟩
  · exact .inl ⟨rfl, rfl, rfl⟩

/-- The commit of an operation that sends no control byte of the three kinds changes nothing (R81). -/
theorem commit_eq_self {i : Instr} (s : State) (h₁ : i.opcode ≠ .init) (h₂ : i.opcode ≠ .writeCommand)
    (h₃ : i.opcode = .writeChar → ∃ c, i = .writeChar c true) : commit i s = s := by
  cases i with
  | init n => exact absurd rfl h₁
  | writeCommand b => exact absurd rfl h₂
  | writeChar c m => obtain ⟨c, ⟨⟩⟩ := h₃ rfl; rfl
  | displayString l pos text =>
    have one : controlBytes (.displayString l pos text) = [addressCommand l pos] := by
      have none : (text.map dataByte).filter (fun x => !x.data) = [] := by simp [dataByte]
      simp [controlBytes, logicalBytes, controlByte, none]
    simp [commit, commitPhase, one, shadowUpdate_addressCommand]
  | clear => rfl
  | setBacklight on => rfl

/-- An operation other than INIT: acceptance leaves the line count and the shadow registers, and all but
SET_BACKLIGHT the backlight (R116). -/
theorem accept_registers {i : Instr} {s : State} (hi : i.opcode ≠ .init) :
    (accept i s).lineCount = s.lineCount ∧ SameShadows (accept i s) s ∧
    (i.opcode ≠ .setBacklight → (accept i s).backlight = s.backlight) := by
  rcases accept_cases i s with ⟨e, -, -⟩ | ⟨n, rfl, -, -⟩ | ⟨n, rfl, -, -, -⟩ | ⟨on, rfl, -, e⟩ | ⟨-, -, -, e⟩
  · rw [e]; exact ⟨rfl, ⟨rfl, rfl, rfl⟩, fun _ => rfl⟩
  · exact absurd rfl hi
  · exact absurd rfl hi
  · rw [e]; exact ⟨rfl, ⟨rfl, rfl, rfl⟩, fun h => absurd rfl h⟩
  · rw [e]; exact ⟨rfl, ⟨rfl, rfl, rfl⟩, fun _ => rfl⟩

/-- An operation other than INIT leaves the shadow registers, or it ended with OK and they are its commit's. -/
theorem exec_shadows {i : Instr} {s t : State} (h : exec i s = .next t) (hi : i.opcode ≠ .init) :
    SameShadows t s ∨ (t.rsp = some .ok ∧ t.busy = false ∧ SameShadows t (commit i s)) := by
  obtain ⟨-, ⟨e, d, f⟩, -⟩ := accept_registers (s := s) hi
  rcases exec_cases h with ⟨rfl, -, -⟩ | ⟨-, hinit⟩ | ⟨a, rfl, rfl, -, hc, -, -, -, -, -, hp, hpa⟩
  · exact .inl ⟨rfl, rfl, rfl⟩
  · exact absurd hinit hi
  · have phase : (accept i s).phase = s.phase := by rw [hpa, if_neg hi, hp hi]
    rcases proceed_shadows hc with ⟨e', d', f'⟩ | ⟨hr, hb, same⟩
    · exact .inl ⟨e'.trans e, d'.trans d, f'.trans f⟩
    · rw [commit_congr i s _ phase e d f] at same
      exact .inr ⟨hr, hb, same⟩

theorem exec_shadows_of_commit_eq_self {i : Instr} {s t : State} (h : exec i s = .next t) (hi : i.opcode ≠ .init)
    (hc : commit i s = s) : SameShadows t s :=
  (exec_shadows h hi).elim id fun ⟨_, _, same⟩ => hc ▸ same

/-- Settles O59: what acceptance leaves and what the run of the plan leaves. -/
theorem frameOfEveryOperation : Obligations.FrameOfEveryOperation := by
  intro i s t h
  have same : ∀ hi : i.opcode ≠ .init, commit i s = s → SameShadows t s := exec_shadows_of_commit_eq_self h
  have shadows := exec_shadows h
  have phase := exec_phase h
  have registers := accept_registers (i := i) (s := s)
  obtain ⟨aa, at', ac, ar, av, aq, af⟩ := accept_frame i s
  rw [exec_eq_proceed] at h
  cases h
  obtain ⟨pc, pr, pv, pq, pf, pa, pt, pl, pb⟩ := proceed_frame (accept i s)
  refine ⟨pc.trans ac, pr.trans ar, pv.trans av, pq.trans aq, pf.trans af, aa ▸ pa, at' ▸ pt,
    fun hi => pl.trans (registers hi).1, fun hi hb => pb.trans ((registers hi).2.2 hb), ?_, ?_, ?_, ?_⟩
  · exact fun hi hw hch => same hi (commit_eq_self s hi hw fun h => absurd h hch)
  · rintro c rfl
    exact same nofun (commit_eq_self s nofun nofun fun _ => ⟨c, rfl⟩)
  · intro hi hend
    rcases shadows hi with same | ⟨hr, hb, -⟩
    · exact same
    · exact absurd hend (by simp [hr, hb])
  · intro hi
    rcases phase with ⟨hp, -⟩ | ⟨-, hp, hp' | ⟨hf, -⟩⟩ | ⟨n, rfl, -⟩
    · exact .inl hp
    · exact .inl (hp'.trans hp.symm)
    · exact .inr ⟨hp, hf⟩
    · exact absurd rfl hi

end Sys2Proof.Machine
end

section
/-! SUPPORT. An operation in progress on the wire: its trace is its plan from the front (R40, R79, R128), a silent
transport holds it where it stands (R160), and it goes on from there. -/

namespace Sys2Proof.Machine

/-! ### The plan and its trace -/

/-- A plan performed is the plan, event by event. -/
@[simp] theorem performed_planned (p : List PlanEvent) : (performed p).map WireEvent.planned = p := by
  induction p with
  | nil => rfl
  | cons e p ih => cases e <;> exact congrArg _ ih

/-- No write of a plan performed failed. -/
theorem performed_ne_of_writeFailed (p : List PlanEvent) (before : List WireEvent) (b : Byte)
    (later : List WireEvent) : performed p ≠ before ++ .writeFailed b :: later := by
  intro h
  have inside : WireEvent.writeFailed b ∈ performed p := by simp [h]
  obtain ⟨e, -, he⟩ := List.mem_map.1 inside
  cases e <;> cases he

/-- A failed write can only be the event behind the events performed, and is then the last one. -/
theorem nothing_after_writeFailed {p : List PlanEvent} {e : WireEvent} {b : Byte} {before later : List WireEvent}
    (h : performed p ++ [e] = before ++ .writeFailed b :: later) : later = [] := by
  rcases List.eq_nil_or_concat' later with rfl | ⟨init, last, rfl⟩
  · rfl
  · have inside : performed p = before ++ .writeFailed b :: init :=
      (List.append_inj' (h.trans (List.append_assoc before (.writeFailed b :: init) [last]).symm) rfl).1
    exact absurd inside (performed_ne_of_writeFailed _ _ _ _)

/-- What running the plan adds to the trace: the plan from the front; a failed write is the last event, and the phase
is FAILED; where the run waits, what is left is the rest of the plan (R79, R128). -/
theorem proceed_trace (s : State) :
    ∃ tr, (proceed s).trace = s.trace ++ tr ∧ tr.map WireEvent.planned <+: s.plan ∧
      (∀ before b later, tr = before ++ .writeFailed b :: later →
        later = [] ∧ (proceed s).phase = .failed ∧ (proceed s).rsp = some .transportError) ∧
      ((proceed s).busy = true → tr.map WireEvent.planned ++ (proceed s).plan = s.plan) := by
  rcases proceed_cases s with ⟨-, e⟩ | ⟨rest, -, -, e⟩ | ⟨rest, done, b, left, -, -, hp, e⟩ |
    ⟨done, b, left, -, hp, e⟩ <;> rw [e]
  · exact ⟨[], by simp, by simp, by simp, fun _ => rfl⟩
  · rw [commitCur_frame]
    exact ⟨performed s.plan, rfl, by simp, fun _ _ _ h => absurd h (performed_ne_of_writeFailed _ _ _ _), nofun⟩
  · refine ⟨performed done ++ [.writeFailed b], rfl, ?_, fun _ _ _ h => ⟨nothing_after_writeFailed h, rfl, rfl⟩, nofun⟩
    exact ⟨left, by simp [hp, WireEvent.planned]⟩
  · exact ⟨performed done, rfl, by simp [hp], fun _ _ _ h => absurd h (performed_ne_of_writeFailed _ _ _ _),
      fun _ => by simp [hp]⟩

/-- Settles O40: acceptance does nothing on the wire, then the plan is run. -/
theorem traceIsThePlanFromTheFront : Obligations.TraceIsThePlanFromTheFront := by
  intro i s t h
  obtain ⟨-, untouched, -⟩ := accept_frame i s
  rw [exec_eq_proceed] at h
  cases h
  exact untouched ▸ proceed_trace (accept i s)

/-! ### Waiting -/

/-- Out of reset, with an operation in progress, a step goes on with it (R47). -/
theorem step_running {s : State} {i : Instr} (hr : s.rst = false) (hb : s.busy = true) (hpk : s.packet = [])
    (hc : s.cur = some i) : step s = .next (proceed s.clearRsp) := by
  simp [step, hr, hb, hpk, hc]

/-- Settles O49: with no answer the run waits at its first write. -/
theorem silentTransportLeavesTheOperationWaiting : Obligations.SilentTransportLeavesTheOperationWaiting := by
  intro s b p i hr hb hpk hc hp ha
  have waits : runPlan s.clearRsp.plan s.clearRsp.answers =
      { trace := [], plan := .write b :: p, answers := [], ending := .waiting } := by simp [hp, ha, runPlan]
  rw [step_running hr hb hpk hc, proceed_waiting (s := s.clearRsp) hb waits]
  simp [State.clearRsp, hp, ha]

/-! ### Going on after silence -/

/-- The transport's answers to come are `as` (R32). -/
def State.withAnswers (s : State) (as : List Answer) : State := { s with answers := as }

@[simp] theorem State.withAnswers_busy (s : State) (as : List Answer) : (s.withAnswers as).busy = s.busy := rfl
@[simp] theorem State.withAnswers_plan (s : State) (as : List Answer) : (s.withAnswers as).plan = s.plan := rfl
@[simp] theorem State.withAnswers_answers (s : State) (as : List Answer) : (s.withAnswers as).answers = as := rfl
@[simp] theorem State.withAnswers_withAnswers (s : State) (as bs : List Answer) :
    (s.withAnswers as).withAnswers bs = s.withAnswers bs := rfl

/-- Acceptance looks at no answer: in every arm the check reads other fields, and both branches leave the answers. -/
theorem accept_withAnswers (i : Instr) (s : State) (as : List Answer) :
    accept i (s.withAnswers as) = (accept i s).withAnswers as := by
  cases i <;>
    simp only [accept, acceptInit, acceptWriteCommand, acceptWriteChar, acceptDisplayString, acceptClear,
      acceptSetBacklight, whenReady, apply_ite (State.withAnswers · as)] <;>
    rfl

/-- How a run ends does not depend on where the port and the delay counter stood. -/
theorem proceed_port {s : State} (hb : s.busy = true) (tx : Option Byte) (d : Nat) :
    proceed { s with txPort := tx, delayLeft := d } = proceed s := by
  simp only [proceed, hb, if_true]
  cases (runPlan s.plan s.answers).ending with
  | done =>
    cases hc : s.cur with
    | none => rfl
    | some op => exact respond_commit_congr op .ok _ _ rfl
  | failed => rfl
  | waiting => rfl

/-- A block still busy after a run waits at a write. -/
theorem proceed_busy {s : State} (h : (proceed s).busy = true) :
    s.busy = true ∧ (runPlan s.plan s.answers).ending = .waiting := by
  cases hb : s.busy with
  | false => simp [proceed, hb] at h
  | true =>
    refine ⟨rfl, ?_⟩
    cases he : (runPlan s.plan s.answers).ending <;> simp [proceed, hb, he] at h ⊢

/-- A run that waits leaves the operation, its packet and `rst` alone, and gives no response. -/
theorem proceed_busy_frame {s : State} (h : (proceed s).busy = true) :
    (proceed s).cur = s.cur ∧ (proceed s).packet = s.packet ∧ (proceed s).rst = s.rst ∧ (proceed s).rsp = s.rsp := by
  obtain ⟨hb, hw⟩ := proceed_busy h
  simp [proceed, hb, hw]

/-- A run that waits, given more answers, ends as it would have with all the answers at once. -/
theorem proceed_resume {s : State} (late : List Answer) (h : (proceed s).busy = true) :
    proceed ((proceed s).withAnswers late) = proceed (s.withAnswers (s.answers ++ late)) := by
  obtain ⟨hb, hw⟩ := proceed_busy h
  have whole := runPlan_append s.plan s.answers late hw
  rw [← proceed_port (s := s.withAnswers (s.answers ++ late)) hb (headWrite (runPlan s.plan s.answers).plan) 0]
  simp [proceed, hb, hw, whole, State.withAnswers]

theorem clearRsp_of_rsp_none {s : State} (h : s.rsp = none) : s.clearRsp = s := by
  rw [State.clearRsp, ← h]

/-- The step that resumes a waiting operation ends as its run would have with all the answers at once. -/
theorem step_resume {s : State} {i : Instr} (late : List Answer) (hr : s.rst = false) (hrsp : s.rsp = none)
    (hpk : s.packet = []) (hc : s.cur = some i) (h : (proceed s).busy = true) :
    step ((proceed s).withAnswers late) = .next (proceed (s.withAnswers (s.answers ++ late))) := by
  obtain ⟨hc', hpk', hr', hrsp'⟩ := proceed_busy_frame h
  have quiet : ((proceed s).withAnswers late).clearRsp = (proceed s).withAnswers late :=
    clearRsp_of_rsp_none (hrsp'.trans hrsp)
  rw [step_running (s := (proceed s).withAnswers late) (hr'.trans hr) h (hpk'.trans hpk) (hc'.trans hc), quiet,
    proceed_resume late h]

/-- Settles O51: acceptance is the same with the later answers still to come, and then the step resumes the run. -/
theorem resumedOperationEndsAsAnUninterruptedOne : Obligations.ResumedOperationEndsAsAnUninterruptedOne := by
  intro i s u early late hr hrsp h hbusy
  change exec i (s.withAnswers early) = .next u at h
  change step (u.withAnswers late) = exec i (s.withAnswers (early ++ late))
  obtain ⟨-, -, -, hrst, -⟩ := accept_frame i s
  rcases exec_cases h with ⟨rfl, -⟩ | ⟨rfl, -⟩ | ⟨a, rfl, rfl, -, hc, hpk, -, -, -, hrsp', -⟩
  · cases hbusy
  · cases hbusy
  · rw [accept_withAnswers] at hc hpk hrsp' hbusy ⊢
    have resumed := step_resume (s := (accept i s).withAnswers early) late (hrst.trans hr) (hrsp'.trans hrsp) hpk hc
      hbusy
    rw [resumed, exec_eq_proceed, accept_withAnswers]
    simp

end Sys2Proof.Machine
end

section
/-! SUPPORT. A run is its operations in order (R41, R169): what one of them adds, and a run of any kind taken apart
piece by piece. -/

namespace Sys2Proof.Machine

/-! ### What one operation adds -/

/-- From `u` to `v` the events `tr` were added to the trace, and the one response `st` was presented (R120). -/
structure Adds (u v : State) (tr : List WireEvent) (st : Status) : Prop where
  trace : v.trace = u.trace ++ tr
  responses : v.responses = u.responses ++ [st]
  rsp : v.rsp = some st

/-- A run of a plan that ends the operation adds its events and one response. -/
theorem proceed_adds {s : State} (hb : s.busy = true) (he : (proceed s).ended = true) :
    ∃ tr st, Adds s (proceed s) tr st := by
  rcases proceed_cases s with ⟨hb', -⟩ | ⟨rest, -, -, e⟩ | ⟨rest, done, b, left, -, -, -, e⟩ |
    ⟨done, b, left, -, -, e⟩
  · exact absurd (hb.symm.trans hb') nofun
  · rw [e, commitCur_frame]
    exact ⟨_, _, rfl, rfl, rfl⟩
  · exact e ▸ ⟨_, _, rfl, rfl, rfl⟩
  · have idle := ((ended_iff _).1 he).1
    rw [e] at idle
    exact absurd (hb.symm.trans idle) nofun

/-- An operation that ends adds its events and one response, refused or run. -/
theorem exec_adds {i : Instr} {s t : State} (h : exec i s = .next t) (he : t.ended = true) :
    ∃ tr st, Adds s t tr st := by
  rcases exec_cases h with ⟨rfl, -⟩ | ⟨rfl, -⟩ | ⟨a, rfl, rfl, hb, -, -, -, -, responses, -⟩
  · exact ⟨[], _, by simp, rfl, rfl⟩
  · exact ⟨[], _, by simp, rfl, rfl⟩
  · obtain ⟨-, trace, -⟩ := accept_frame i s
    obtain ⟨tr, st, added⟩ := proceed_adds hb he
    exact ⟨tr, st, trace ▸ added.trace, responses ▸ added.responses, added.rsp⟩

/-- A packet of a run adds its events and one response, legal or not. -/
theorem giveRequest_adds {r : Request} {s t : State} (h : giveRequest r s = some t) : ∃ tr st, Adds s t tr st := by
  rcases giveRequest_cases h with ⟨i, -, he, hend⟩ | ⟨w, -, rfl⟩
  · obtain ⟨tr, st, added⟩ := exec_adds he hend
    exact ⟨tr, st, { added with }⟩
  · exact ⟨[], _, by simp, rfl, rfl⟩

/-! ### A run taken apart -/

section
variable {α : Type} (run : List α → State → Option State) (R : α → State → State → Prop)

/-- A run of the items `as` from `s` to `t` taken apart: `traces` and `statuses` hold one entry for each item, and
entry `j` is what item `j` adds to the state the first `j` items end in. -/
structure Pieces (as : List α) (s t : State) (traces : List (List WireEvent)) (statuses : List Status) : Prop where
  traces_length : traces.length = as.length
  statuses_length : statuses.length = as.length
  trace : t.trace = s.trace ++ traces.flatten
  responses : t.responses = s.responses ++ statuses
  rsp : t.rsp = statuses.getLast?.or s.rsp
  piece : ∀ j a, as[j]? = some a → ∃ u v tr st, run (as.take j) s = some u ∧ R a u v ∧
    run (as.take (j + 1)) s = some v ∧ traces[j]? = some tr ∧ statuses[j]? = some st ∧ Adds u v tr st

variable {run R}

theorem Pieces.nil (s : State) : Pieces run R [] s s [] [] where
  traces_length := rfl
  statuses_length := rfl
  trace := by simp
  responses := by simp
  rsp := rfl
  piece := by simp

/-- A run of at least one item ends with its last status on the response port. -/
theorem Pieces.last_rsp {as : List α} {s t : State} {traces : List (List WireEvent)} {statuses : List Status}
    (h : Pieces run R as s t traces statuses) (hne : as ≠ []) : t.rsp = statuses.getLast? := by
  have nonempty : statuses ≠ [] := by
    rintro rfl
    exact hne (List.eq_nil_of_length_eq_zero h.statuses_length.symm)
  simp [h.rsp, List.getLast?_eq_getLast_of_ne_nil nonempty]

variable (hcons : ∀ a as s t, run (a :: as) s = some t ↔ ∃ u, R a s u ∧ run as u = some t)
  (hempty : ∀ a u v, R a u v → run [] u = some u ∧ run [] v = some v)
include hcons hempty

/-- One more item in front of a run. -/
theorem Pieces.cons {a : α} {as : List α} {s u t : State} {tr : List WireEvent} {st : Status}
    {traces : List (List WireEvent)} {statuses : List Status} (first : R a s u) (added : Adds s u tr st)
    (rest : Pieces run R as u t traces statuses) : Pieces run R (a :: as) s t (tr :: traces) (st :: statuses) where
  traces_length := by simp [rest.traces_length]
  statuses_length := by simp [rest.statuses_length]
  trace := by simp [rest.trace, added.trace]
  responses := by simp [rest.responses, added.responses]
  rsp := by
    rw [rest.rsp, added.rsp, List.getLast?_cons]
    cases statuses.getLast? <;> rfl
  piece := by
    obtain ⟨emptyBefore, emptyAfter⟩ := hempty a s u first
    rintro (_ | j) b hb
    · obtain rfl : a = b := by simpa using hb
      exact ⟨s, u, tr, st, emptyBefore, first, (hcons _ _ _ _).2 ⟨u, first, emptyAfter⟩, rfl, rfl, added⟩
    · obtain ⟨v, w, tr', st', before, here, after, htr, hst, adds⟩ := rest.piece j b hb
      exact ⟨v, w, tr', st', (hcons _ _ _ _).2 ⟨u, first, before⟩, here, (hcons _ _ _ _).2 ⟨u, first, after⟩, htr, hst,
        adds⟩

/-- Where each item adds events and one response, a run of them is taken apart. -/
theorem exists_pieces (hnil : ∀ s t, run [] s = some t → t = s) (adds : ∀ a u v, R a u v → ∃ tr st, Adds u v tr st)
    (as : List α) {s t : State} (h : run as s = some t) : ∃ traces statuses, Pieces run R as s t traces statuses := by
  induction as generalizing s with
  | nil =>
    obtain rfl := hnil s t h
    exact ⟨_, _, Pieces.nil _⟩
  | cons a as ih =>
    obtain ⟨u, first, rest⟩ := (hcons a as s t).1 h
    obtain ⟨tr, st, added⟩ := adds a s u first
    obtain ⟨traces, statuses, pieces⟩ := ih rest
    exact ⟨_, _, Pieces.cons hcons hempty first added pieces⟩

end

/-! ### Runs of packets and runs of operations -/

theorem runRequests_nil {s t : State} : runRequests [] s = some t ↔ s.ended = true ∧ t = s := by
  cases hs : s.ended <;> simp [runRequests, hs, eq_comm (a := s)]

/-- A run of packets starts and ends with nothing in progress. -/
theorem runRequests_ended {rs : List Request} {s t : State} (h : runRequests rs s = some t) :
    s.ended = true ∧ t.ended = true := by
  induction rs generalizing s with
  | nil =>
    obtain ⟨hs, rfl⟩ := runRequests_nil.1 h
    exact ⟨hs, hs⟩
  | cons r rs ih =>
    obtain ⟨u, given, rest⟩ := runRequests_cons.1 h
    obtain ⟨⟨hs, -⟩, -⟩ := giveRequest_eq_some.1 given
    exact ⟨hs, (ih rest).2⟩

/-- A run of at least one operation ends with nothing in progress. -/
theorem runOps_ended {is : List Instr} {s t : State} (h : runOps is s = some t) (hs : is = [] → s.ended = true) :
    t.ended = true := by
  induction is generalizing s with
  | nil => cases h; exact hs rfl
  | cons i is ih =>
    obtain ⟨u, -, hu, rest⟩ := runOps_cons.1 h
    exact ih rest fun _ => hu

theorem runRequests_pieces {rs : List Request} {s t : State} (h : runRequests rs s = some t) :
    ∃ traces statuses, Pieces runRequests (fun r u v => giveRequest r u = some v) rs s t traces statuses := by
  refine exists_pieces (fun _ _ _ _ => runRequests_cons) (fun r u v given => ?_)
    (fun _ _ h => (runRequests_nil.1 h).2) (fun _ _ _ => giveRequest_adds) rs h
  obtain ⟨⟨hu, -⟩, -, hv⟩ := giveRequest_eq_some.1 given
  exact ⟨runRequests_nil.2 ⟨hu, rfl⟩, runRequests_nil.2 ⟨hv, rfl⟩⟩

theorem runOps_pieces {is : List Instr} {s t : State} (h : runOps is s = some t) :
    ∃ traces statuses, Pieces runOps (fun i u v => exec i u = .next v ∧ v.ended = true) is s t traces statuses := by
  refine exists_pieces (fun _ _ _ _ => by simp [runOps_cons, and_assoc]) (fun _ _ _ _ => ⟨rfl, rfl⟩) ?_
    (fun _ _ _ h => exec_adds h.1 h.2) is h
  rintro s t ⟨⟩
  rfl

/-- Settles O43: a run of packets, and a run of operations, each taken apart. -/
theorem runIsItsOperationsInOrder : Obligations.RunIsItsOperationsInOrder := by
  refine ⟨fun rs s t h => ?_, fun is s t h => ?_⟩
  · obtain ⟨traces, statuses, pieces⟩ := runRequests_pieces h
    obtain ⟨hs, ht⟩ := runRequests_ended h
    refine ⟨traces, statuses, pieces.traces_length, pieces.statuses_length, pieces.trace, pieces.responses, hs, ht,
      pieces.last_rsp, fun j r hj => ?_⟩
    obtain ⟨u, v, tr, st, before, given, after, htr, hst, added⟩ := pieces.piece j r hj
    obtain ⟨⟨hu, hr, -⟩, hstep, hv⟩ := giveRequest_eq_some.1 given
    exact ⟨u, v, tr, st, before, hu, hr, hstep, hv, after, htr, hst, added.trace, added.responses, added.rsp⟩
  · obtain ⟨traces, statuses, pieces⟩ := runOps_pieces h
    refine ⟨traces, statuses, pieces.traces_length, pieces.statuses_length, pieces.trace, pieces.responses,
      fun hne => ⟨runOps_ended h (absurd · hne), pieces.last_rsp hne⟩, fun j i hj => ?_⟩
    obtain ⟨u, v, tr, st, before, ⟨ran, hv⟩, after, htr, hst, added⟩ := pieces.piece j i hj
    exact ⟨u, v, tr, st, before, ran, hv, after, htr, hst, added.trace, added.responses, added.rsp⟩

end Sys2Proof.Machine
end

section
/-! SUPPORT. The fields of any header word (R48): as numbers, under a mask, and back together; then what the header
decoder says of them (R50, R58). -/

namespace Sys2Proof

/-! ### The fields of a word -/

/-- The four fields as digits of the word's number. -/
theorem header_fields_toNat (h : ReqWord) :
    (headerOpc h).toNat = h.toNat / 4096 ∧ (headerRsv h).toNat = h.toNat / 512 % 8 ∧
    (headerF h).toNat = h.toNat / 256 % 2 ∧ (headerArg h).toNat = h.toNat % 256 := by
  have bound := h.isLt
  refine ⟨?_, ?_, Nat.toNat_testBit h.toNat 8, ?_⟩
  · simp only [headerOpc, BitVec.extractLsb'_toNat, Nat.shiftRight_eq_div_pow]
    omega
  · simp only [headerRsv, BitVec.extractLsb'_toNat, Nat.shiftRight_eq_div_pow]
  · simp only [headerArg, BitVec.extractLsb'_toNat, Nat.shiftRight_zero]

/-- A word is its four fields. -/
theorem header_ext {g h : ReqWord} (opc : headerOpc g = headerOpc h) (rsv : headerRsv g = headerRsv h)
    (f : headerF g = headerF h) (arg : headerArg g = headerArg h) : g = h := by
  obtain ⟨g₁, g₂, g₃, g₄⟩ := header_fields_toNat g
  obtain ⟨h₁, h₂, h₃, h₄⟩ := header_fields_toNat h
  rw [opc, h₁] at g₁
  rw [rsv, h₂] at g₂
  rw [f, h₃] at g₃
  rw [arg, h₄] at g₄
  apply BitVec.eq_of_toNat_eq
  omega

/-- A word with the reserved field clear is a header word. -/
theorem exists_headerWord {h : ReqWord} (rsv : headerRsv h = 0) : ∃ opc f arg, h = headerWord opc f arg :=
  ⟨headerOpc h, headerF h, headerArg h, header_ext (by simp) (by simp [rsv]) (by simp) (by simp)⟩

/-- The number of a header word. -/
theorem toNat_headerWord (opc : BitVec 4) (f : Bool) (arg : Byte) :
    (headerWord opc f arg).toNat = 4096 * opc.toNat + 256 * f.toNat + arg.toNat := by
  obtain ⟨h₁, h₂, h₃, h₄⟩ := header_fields_toNat (headerWord opc f arg)
  simp only [headerOpc_headerWord, headerRsv_headerWord, headerF_headerWord, headerArg_headerWord]
    at h₁ h₂ h₃ h₄
  have reserved : (0 : BitVec 3).toNat = 0 := rfl
  omega

/-! ### The header decoder -/

/-- What the encoder writes where the decoder reads the header `d`: the packet, or its first word (R50, R57). -/
def Header.words : Header → List ReqWord
  | .whole i => encode i
  | .string l pos => [headerWord 0x3 l pos]

/-- A legal header is the one the encoder writes. -/
theorem decodeHeader_eq_some_iff {h : ReqWord} {d : Header} : decodeHeader h = some d ↔ d.words = [h] := by
  constructor
  · intro hd
    unfold decodeHeader at hd
    split at hd
    · cases hd
    · rename_i rsv
      obtain ⟨opc, f, arg, rfl⟩ := exists_headerWord (not_not.1 rsv)
      simp only [headerOpc_headerWord, headerF_headerWord, headerArg_headerWord] at hd
      split at hd <;> rename_i row
      · obtain rfl : opc = 0x0 := BitVec.eq_of_toNat_eq row
        obtain ⟨rfl, rfl⟩ : f = false ∧ _ = d := by simpa using hd
        rfl
      · obtain rfl : opc = 0x1 := BitVec.eq_of_toNat_eq row
        obtain ⟨rfl, rfl⟩ : f = false ∧ _ = d := by simpa using hd
        rfl
      · obtain rfl : opc = 0x2 := BitVec.eq_of_toNat_eq row
        cases hd
        rfl
      · obtain rfl : opc = 0x3 := BitVec.eq_of_toNat_eq row
        cases hd
        rfl
      · obtain rfl : opc = 0x4 := BitVec.eq_of_toNat_eq row
        obtain ⟨⟨rfl, rfl⟩, rfl⟩ : (f = false ∧ arg = 0) ∧ _ = d := by simpa using hd
        rfl
      · obtain rfl : opc = 0x5 := BitVec.eq_of_toNat_eq row
        obtain ⟨rfl, rfl⟩ : arg = 0 ∧ _ = d := by simpa using hd
        rfl
      · cases hd
  · intro he
    cases d with
    | whole i => cases i <;> cases he <;> simp [decodeHeader]
    | string l pos => cases he; simp [decodeHeader]

/-- The four conditions of R58, on the fields. -/
theorem decodeHeader_eq_none_iff (h : ReqWord) :
    decodeHeader h = none ↔
      6 ≤ (headerOpc h).toNat ∨ headerRsv h ≠ 0 ∨
      (headerF h = true ∧ ((headerOpc h).toNat = 0 ∨ (headerOpc h).toNat = 1 ∨ (headerOpc h).toNat = 4)) ∨
      (headerArg h ≠ 0 ∧ ((headerOpc h).toNat = 4 ∨ (headerOpc h).toNat = 5)) := by
  unfold decodeHeader
  split
  · tauto
  · rename_i rsv
    have rsv := not_not.1 rsv
    split <;> rename_i row
    case h_7 =>
      refine iff_of_true rfl (.inl ?_)
      simp only [imp_false] at *
      omega
    all_goals simp [row, rsv, imp_iff_not_or]

/-! ### The opcode map -/

/-- A row selects a header field by field. -/
theorem selects_iff (r : OpcodeRow) (h : ReqWord) :
    r.selects h = true ↔
      headerOpc h &&& headerOpc r.mask = headerOpc r.value ∧ headerRsv h &&& headerRsv r.mask = headerRsv r.value ∧
      (headerF h && headerF r.mask) = headerF r.value ∧ headerArg h &&& headerArg r.mask = headerArg r.value := by
  have opc : headerOpc (h &&& r.mask) = headerOpc h &&& headerOpc r.mask := BitVec.extractLsb'_and
  have rsv : headerRsv (h &&& r.mask) = headerRsv h &&& headerRsv r.mask := BitVec.extractLsb'_and
  have f : headerF (h &&& r.mask) = (headerF h && headerF r.mask) := BitVec.getLsbD_and
  have arg : headerArg (h &&& r.mask) = headerArg h &&& headerArg r.mask := BitVec.extractLsb'_and
  rw [OpcodeRow.selects, beq_iff_eq, ← opc, ← rsv, ← f, ← arg]
  exact ⟨fun e => by simp [e], fun ⟨e₁, e₂, e₃, e₄⟩ => header_ext e₁ e₂ e₃ e₄⟩

theorem selects_headerWord (r : OpcodeRow) (opc : BitVec 4) (f : Bool) (arg : Byte) :
    r.selects (headerWord opc f arg) = true ↔
      opc &&& headerOpc r.mask = headerOpc r.value ∧ 0 &&& headerRsv r.mask = headerRsv r.value ∧
      (f && headerF r.mask) = headerF r.value ∧ arg &&& headerArg r.mask = headerArg r.value := by
  rw [selects_iff, headerOpc_headerWord, headerRsv_headerWord, headerF_headerWord, headerArg_headerWord]

/-- The masks of the map cover the fields `OPC` and `RSV`; of `F` and `ARG` the values ask nothing but 0. -/
theorem fields_of_selects {r : OpcodeRow} (hr : r ∈ opcodeMap) {h : ReqWord} (hs : r.selects h = true) :
    headerRsv h = 0 ∧ headerOpc h = headerOpc r.value ∧ (headerF r.mask = true → headerF h = false) ∧
      (headerArg r.mask ≠ 0 → headerArg h = 0) := by
  have table : ∀ r ∈ opcodeMap, headerOpc r.mask = BitVec.allOnes 4 ∧ headerRsv r.mask = BitVec.allOnes 3 ∧
      (headerArg r.mask = 0 ∨ headerArg r.mask = BitVec.allOnes 8) ∧
      headerRsv r.value = 0 ∧ headerF r.value = false ∧ headerArg r.value = 0 := by decide
  obtain ⟨m₁, m₂, m₄, v₂, v₃, v₄⟩ := table r hr
  rw [selects_iff, m₁, m₂, v₂, v₃, v₄, BitVec.and_allOnes, BitVec.and_allOnes] at hs
  obtain ⟨opc, rsv, f, arg⟩ := hs
  refine ⟨rsv, opc, fun hf => by simpa [hf] using f, fun ha => ?_⟩
  rwa [m₄.resolve_left ha, BitVec.and_allOnes] at arg

/-- A row selects headers of its own operation only. -/
theorem opcode_of_selects {r : OpcodeRow} (hr : r ∈ opcodeMap) {h : ReqWord} (hs : r.selects h = true) :
    (decodeHeader h).map Header.opcode = some r.opcode := by
  obtain ⟨rsv, hopc, hf, harg⟩ := fields_of_selects hr hs
  obtain ⟨opc, f, arg, rfl⟩ := exists_headerWord rsv
  rw [headerOpc_headerWord] at hopc
  rw [headerF_headerWord] at hf
  rw [headerArg_headerWord] at harg
  have read : ∀ d : Header, d.words = [headerWord opc f arg] →
      (decodeHeader (headerWord opc f arg)).map Header.opcode = some d.opcode :=
    fun d hd => by rw [decodeHeader_eq_some_iff.2 hd, Option.map_some]
  clear rsv hs
  subst hopc
  simp only [opcodeMap, List.mem_cons, List.not_mem_nil, or_false] at hr
  rcases hr with rfl | rfl | rfl | rfl | rfl | rfl
  · obtain rfl := hf rfl
    exact read (.whole (.init arg)) rfl
  · obtain rfl := hf rfl
    exact read (.whole (.writeCommand arg)) rfl
  · exact read (.whole (.writeChar arg f)) rfl
  · exact read (.string f arg) rfl
  · obtain rfl := hf rfl
    obtain rfl := harg (by decide)
    exact read (.whole .clear) rfl
  · obtain rfl := harg (by decide)
    exact read (.whole (.setBacklight f)) rfl

/-- Every legal header is selected by a row. -/
theorem exists_selects {h : ReqWord} {d : Header} (hd : decodeHeader h = some d) :
    ∃ r ∈ opcodeMap, r.selects h = true := by
  rw [decodeHeader_eq_some_iff] at hd
  cases d with
  | whole i => cases i <;> cases hd <;> simp [opcodeMap, selects_headerWord, headerOpc, headerRsv, headerF, headerArg]
  | string l pos => cases hd; simp [opcodeMap, selects_headerWord, headerOpc, headerRsv, headerF, headerArg]

/-- Settles O1: the row that selects a header is the decoded operation's, and no two rows have one operation. -/
theorem opcodeMapSelectsTheDecodedOperation : Obligations.OpcodeMapSelectsTheDecodedOperation := by
  have one_row : ∀ r₁ ∈ opcodeMap, ∀ r₂ ∈ opcodeMap, r₁.opcode = r₂.opcode → r₁ = r₂ := by decide
  refine ⟨fun h => ?_, fun r₁ h₁ r₂ h₂ h s₁ s₂ => ?_⟩
  · cases found : opcodeMap.find? (·.selects h) with
    | some r =>
      have hs := List.find?_some found
      exact opcode_of_selects (List.mem_of_find?_eq_some found) hs
    | none =>
      cases hd : decodeHeader h with
      | none => rfl
      | some d =>
        obtain ⟨r, hr, hs⟩ := exists_selects hd
        exact absurd hs (List.find?_eq_none.1 found r hr)
  · have same := (opcode_of_selects h₁ s₁).symm.trans (opcode_of_selects h₂ s₂)
    exact one_row r₁ h₁ r₂ h₂ (Option.some.inj same)

end Sys2Proof
end

section
/-! SUPPORT. Packets (R50, R57): what `decodePacket` reads by the header, and that it is what the encoder writes but
for the ignored bytes. -/

namespace Sys2Proof

/-! ### By the header -/

theorem decodePacket_cons_illegal {h : ReqWord} (hd : decodeHeader h = none) (ws : List ReqWord) :
    decodePacket (h :: ws) = .illegal h ws := by
  simp [decodePacket, hd]

theorem decodePacket_cons_whole {h : ReqWord} {i : Instr} (hd : decodeHeader h = some (.whole i))
    (ws : List ReqWord) : decodePacket (h :: ws) = .packet i ws := by
  simp [decodePacket, hd]

/-- The length word and that many character words behind the header (R57). -/
theorem decodePacket_cons_string (l : Bool) (pos : Byte) {len : ReqWord} {cs : List ReqWord}
    (hlen : cs.length = len.toNat) (rest : List ReqWord) :
    decodePacket (headerWord 0x3 l pos :: len :: (cs ++ rest)) =
      .packet (.displayString l pos (cs.map charOfWord)) rest := by
  have header : decodeHeader (headerWord 0x3 l pos) = some (.string l pos) := decodeHeader_eq_some_iff.2 rfl
  simp only [decodePacket, header]
  simp [← hlen]

/-- Everything a packet can be: the one word of its operation, or a DISPLAY_STRING with as many character words as its
length word says. -/
theorem decodePacket_eq_packet_iff {ws rest : List ReqWord} {i : Instr} :
    decodePacket ws = .packet i rest ↔
      (∃ h, encode i = [h] ∧ ws = h :: rest) ∨
      ∃ l pos len cs, i = .displayString l pos (cs.map charOfWord) ∧ cs.length = BitVec.toNat len ∧
        ws = headerWord 0x3 l pos :: len :: (cs ++ rest) := by
  constructor
  · intro h
    cases ws with
    | nil => cases h
    | cons w ws =>
      cases hw : decodeHeader w with
      | none => cases (decodePacket_cons_illegal hw ws).symm.trans h
      | some d =>
        have words := decodeHeader_eq_some_iff.1 hw
        cases d with
        | whole j =>
          cases (decodePacket_cons_whole hw ws).symm.trans h
          exact .inl ⟨w, words, rfl⟩
        | string l pos =>
          cases words
          simp only [decodePacket, hw] at h
          split at h
          · cases h
          · rename_i len cs
            split at h
            · cases h
            · cases h
              exact .inr ⟨l, pos, len, cs.take len.toNat, rfl, List.length_take_of_le (by omega), by simp⟩
  · rintro (⟨h, he, rfl⟩ | ⟨l, pos, len, cs, rfl, hlen, rfl⟩)
    · exact decodePacket_cons_whole (decodeHeader_eq_some_iff.2 he) rest
    · exact decodePacket_cons_string l pos hlen rest

/-! ### One-word operations -/

/-- An operation whose packet is one word has that one encoding. -/
theorem decodePacket_eq_packet_of_encode {i : Instr} {h : ReqWord} (he : encode i = [h]) (ws rest : List ReqWord) :
    decodePacket ws = .packet i rest ↔ ws = h :: rest := by
  rw [decodePacket_eq_packet_iff, he]
  constructor
  · rintro (⟨h', ⟨⟩, e⟩ | ⟨l, pos, len, cs, rfl, -⟩)
    · exact e
    · cases he
  · exact fun e => .inl ⟨h, rfl, e⟩

/-- Settles O3: CLEAR is one word with no operand. -/
theorem clearHasOneEncoding : Obligations.ClearHasOneEncoding :=
  decodePacket_eq_packet_of_encode rfl

/-- Settles O4: SET_BACKLIGHT is one word, by the value of `ON`. -/
theorem setBacklightHasTwoEncodings : Obligations.SetBacklightHasTwoEncodings := by
  rintro (_ | _) <;> exact decodePacket_eq_packet_of_encode rfl

/-! ### Any operation -/

@[simp] theorem charOfWord_comp_wordOfChar : charOfWord ∘ wordOfChar = id := funext charOfWord_wordOfChar

/-- Every operation but DISPLAY_STRING is one word, and has an encoding whatever its operand. -/
theorem encode_cases (i : Instr) :
    (i.wf = true ∧ ∃ h, encode i = [h]) ∨ ∃ l pos text, i = .displayString l pos text := by
  cases i with
  | displayString l pos text => exact .inr ⟨l, pos, text, rfl⟩
  | _ => exact .inl ⟨rfl, _, rfl⟩

/-- Settles O6: the length word of a well-formed text says how many character words are its own. -/
theorem decodeOfEncodeIsTheInstruction : Obligations.DecodeOfEncodeIsTheInstruction := by
  intro i rest hwf
  rw [decodePacket_eq_packet_iff]
  rcases encode_cases i with ⟨-, h, he⟩ | ⟨l, pos, text, rfl⟩
  · exact .inl ⟨h, he, by rw [he]; rfl⟩
  · have fits : text.length < 2 ^ 16 := Nat.lt_succ_of_le (of_decide_eq_true hwf)
    refine .inr ⟨l, pos, BitVec.ofNat 16 text.length, text.map wordOfChar, by simp, ?_, rfl⟩
    rw [List.length_map, BitVec.toNat_ofNat, Nat.mod_eq_of_lt fits]

/-- Settles O7: only the character words are not fixed by the instruction, and they are in their lower bytes. -/
theorem decodedPacketIsAnEncoding : Obligations.DecodedPacketIsAnEncoding := by
  intro ws i rest h
  rcases decodePacket_eq_packet_iff.1 h with ⟨w, he, rfl⟩ | ⟨l, pos, len, cs, rfl, hlen, rfl⟩
  · refine ⟨?_, [w], rfl, by rw [he], by rw [he]⟩
    rcases encode_cases i with ⟨hwf, -⟩ | ⟨l, pos, text, rfl⟩
    · exact hwf
    · cases he
  · have fits : cs.length ≤ maxTextLength := hlen ▸ Nat.le_of_lt_succ len.isLt
    refine ⟨by simpa [Instr.wf] using fits, headerWord 0x3 l pos :: len :: cs, rfl, ?_, ?_⟩ <;>
      simp [encode, hlen]

/-- Settles O5: the decoder run on each word. -/
theorem exampleWordsDecodeAsTheRulesSay : Obligations.ExampleWordsDecodeAsTheRulesSay :=
  ⟨rfl, rfl, rfl, rfl, rfl, rfl, rfl, rfl, rfl⟩

end Sys2Proof
end

section
/-! SUPPORT. The assembler (R66, R67): the words of operands given as numbers, operand by operand and line by line. -/

namespace Sys2Proof.Machine

/-! ### Words and bytes of numbers -/

/-- A header word with a number as its operand, as the table of R66 writes it. -/
theorem headerWord_ofNat {n : Nat} (hn : n < 256) (opc : BitVec 4) (f : Bool) :
    headerWord opc f (BitVec.ofNat 8 n) = BitVec.ofNat 16 (4096 * opc.toNat + 256 * f.toNat + n) := by
  apply BitVec.eq_of_toNat_eq
  have := opc.isLt
  have := f.toNat_le
  rw [toNat_headerWord, BitVec.toNat_ofNat, BitVec.toNat_ofNat, Nat.mod_eq_of_lt hn, Nat.mod_eq_of_lt (by omega)]

theorem wordOfChar_ofNat {n : Nat} (hn : n < 256) : wordOfChar (BitVec.ofNat 8 n) = BitVec.ofNat 16 n := by
  apply BitVec.eq_of_toNat_eq
  simp only [wordOfChar, BitVec.toNat_setWidth, BitVec.toNat_ofNat]
  omega

/-! ### The operands of a line -/

theorem asmByte_of_lt {n : Nat} (hn : n < 256) : asmByte n = some (BitVec.ofNat 8 n) := if_pos hn

theorem asmByte_of_le {n : Nat} (hn : 256 ≤ n) : asmByte n = none := if_neg (by omega)

theorem mapM_asmByte_of_lt {text : List Nat} (h : ∀ c ∈ text, c < 256) :
    text.mapM asmByte = some (text.map (BitVec.ofNat 8)) := by
  induction text with
  | nil => rfl
  | cons c text ih =>
    simp only [List.forall_mem_cons] at h
    simp [List.mapM_cons, asmByte_of_lt h.1, ih h.2]

theorem mapM_asmByte_of_le {text : List Nat} {c : Nat} (hc : c ∈ text) (hle : 256 ≤ c) :
    text.mapM asmByte = none := by
  induction text with
  | nil => cases hc
  | cons d text ih =>
    rcases List.mem_cons.1 hc with rfl | hc
    · simp [List.mapM_cons, asmByte_of_le hle]
    · simp [List.mapM_cons, ih hc]

theorem asmText_eq_some {text : List Nat} (h : ∀ c ∈ text, c < 256) (hlen : text.length ≤ 65535) :
    asmText text = some (text.map (BitVec.ofNat 8)) := by
  rw [asmText, maxTextLength, if_pos hlen, mapM_asmByte_of_lt h]

theorem asmText_eq_none {text : List Nat} (h : 65535 < text.length ∨ ∃ c ∈ text, 256 ≤ c) : asmText text = none := by
  unfold asmText
  split
  · rename_i hlen
    obtain ⟨c, hc, hle⟩ := h.resolve_left (by unfold maxTextLength at hlen; omega)
    exact mapM_asmByte_of_le hc hle
  · rfl

theorem asmLine_eq_none {line : Nat} (h : line ≠ 1 ∧ line ≠ 2) : asmLine line = none := by
  rw [asmLine, if_neg h.1, if_neg h.2]

theorem asmMode_eq_none {mode : Nat} (h : mode ≠ 0 ∧ mode ≠ 1) : asmMode mode = none := by
  rw [asmMode, if_neg h.1, if_neg h.2]

/-! ### The lines -/

theorem assemblePacket_displayString {text : List Nat} {line pos : Nat} (htext : ∀ c ∈ text, c < 256)
    (hlen : text.length ≤ 65535) (hpos : pos < 256) (hline : line = 1 ∨ line = 2) :
    assemblePacket (.displayString text line pos) =
      some (BitVec.ofNat 16 (0x3000 + 0x100 * (line - 1) + pos) :: BitVec.ofNat 16 text.length ::
        text.map (BitVec.ofNat 16)) := by
  have words : (text.map (BitVec.ofNat 8)).map wordOfChar = text.map (BitVec.ofNat 16) := by
    rw [List.map_map]
    exact List.map_congr_left fun c hc => wordOfChar_ofNat (htext c hc)
  rcases hline with rfl | rfl <;>
    simp [assemblePacket, assemble, asmDisplayString, asmText_eq_some htext hlen, asmByte_of_lt hpos, asmLine,
      encode, headerWord_ofNat hpos, words]

theorem assemblePacket_displayString_eq_none {text : List Nat} {line pos : Nat}
    (h : (line ≠ 1 ∧ line ≠ 2) ∨ 256 ≤ pos ∨ 65535 < text.length ∨ ∃ c ∈ text, 256 ≤ c) :
    assemblePacket (.displayString text line pos) = none := by
  have refused : asmText text = none ∨ asmLine line = none ∨ asmByte pos = none := by
    rcases h with h | h | h
    · exact .inr (.inl (asmLine_eq_none h))
    · exact .inr (.inr (asmByte_of_le h))
    · exact .inl (asmText_eq_none h)
  have unspelled : asmDisplayString text line pos = none := by
    unfold asmDisplayString
    split
    · rename_i t l p ht hl hp
      simp [ht, hl, hp] at refused
    · rfl
  rw [assemblePacket, assemble, unspelled, Option.map_none]

theorem assemblePacket_writeChar_eq_none {c mode : Nat} (h : (mode ≠ 0 ∧ mode ≠ 1) ∨ 256 ≤ c) :
    assemblePacket (.writeChar c mode) = none := by
  have refused : asmByte c = none ∨ asmMode mode = none := h.symm.imp asmByte_of_le asmMode_eq_none
  have unspelled : asmWriteChar c mode = none := by
    unfold asmWriteChar
    split
    · rename_i c' m hc hm
      simp [hc, hm] at refused
    · rfl
  rw [assemblePacket, assemble, unspelled, Option.map_none]

/-- Settles O8: the one-word lines here, the lines of strings and the refusals by their lemmas. -/
theorem assemblerGivesThePacketsOfTheTable : Obligations.AssemblerGivesThePacketsOfTheTable := by
  refine ⟨fun n hn => ?_, fun b hb => ?_, fun c hc => ?_, fun c hc => ?_,
    fun _ _ _ => assemblePacket_displayString, rfl, rfl, rfl, fun _ _ _ => assemblePacket_displayString_eq_none,
    fun _ _ => assemblePacket_writeChar_eq_none⟩
  · simp [assemblePacket, assemble, asmByte_of_lt hn, encode, headerWord_ofNat hn]
  · simp [assemblePacket, assemble, asmByte_of_lt hb, encode, headerWord_ofNat hb]
  · simp [assemblePacket, assemble, asmWriteChar, asmByte_of_lt hc, asmMode, encode, headerWord_ofNat hc]
  · simp [assemblePacket, assemble, asmWriteChar, asmByte_of_lt hc, asmMode, encode, headerWord_ofNat hc]

/-- Settles O9: each shorter form is assembled as the full form with its defaults. -/
theorem pseudoOperationsTakeTheDefaults : Obligations.PseudoOperationsTakeTheDefaults :=
  ⟨fun _ => rfl, fun _ => rfl, fun _ _ => rfl⟩

end Sys2Proof.Machine
end

section
/-! SUPPORT. Taking words from the request channel (R47, R57, R58): the step by what the words taken so far and those
on the channel hold. -/

namespace Sys2Proof.Machine

section
variable {s : State} (hr : s.rst = false) (hb : s.busy = false ∨ s.packet ≠ [])

include hb in
/-- The sequencer is free to take words. -/
theorem not_running : (s.busy && s.packet.isEmpty) = false := by
  rcases hb with hb | hpk <;> simp [*]

include hr hb

/-- A whole packet is executed (R126). -/
theorem step_packet {i : Instr} {rest : List ReqWord} (hd : decodePacket (s.packet ++ s.requests) = .packet i rest) :
    step s = exec i { s with packet := [], requests := rest, rsp := none } := by
  simp [step, fetch, hr, not_running hb, hd, State.clearRsp]

/-- An illegal header is refused (R124). -/
theorem step_illegal {w : ReqWord} {rest : List ReqWord}
    (hd : decodePacket (s.packet ++ s.requests) = .illegal w rest) :
    step s = .next (respond .illegalRequest { s with packet := [], requests := rest, rsp := none }) := by
  simp [step, fetch, hr, not_running hb, hd, State.clearRsp]

/-- The words of an unfinished packet are kept (R57). -/
theorem step_incomplete (hd : decodePacket (s.packet ++ s.requests) = .incomplete) :
    step s = .next { s with busy := s.busy || !s.requests.isEmpty, packet := s.packet ++ s.requests, requests := [],
                            rsp := none } := by
  simp [step, fetch, hr, not_running hb, hd, State.clearRsp]

end

/-- Settles O46: out of reset with nothing running, a step is its fetch and then `exec`. -/
theorem stepRunsTheDecodedInstruction : Obligations.StepRunsTheDecodedInstruction :=
  fun _ _ _ hr hb hd => step_packet hr hb hd

/-- Settles O47: the block is busy from the first word it takes. -/
theorem unfinishedPacketWaits : Obligations.UnfinishedPacketWaits := by
  intro s hr hb hne hidle hd
  have busy : (s.busy || !s.requests.isEmpty) = true := by
    cases h : s.busy with
    | true => rfl
    | false => simpa [hidle h] using hne
  rw [step_incomplete hr hb hd, busy]

/-- Settles O50: no word at all is an unfinished packet of which nothing is taken. -/
theorem idleBlockWaitsForAHeader : Obligations.IdleBlockWaitsForAHeader := by
  intro s hr he hq
  obtain ⟨hb, -, -, hpk, -, -⟩ := (ended_iff s).1 he
  rw [step_incomplete hr (.inl hb) (by rw [hpk, hq]; rfl)]
  simp [hb, hpk, hq]

/-- Settles O48: a reset cycle and the run of a plan leave the channel alone, and no third kind of step is left. -/
theorem noRequestIsTakenWhileAnOperationRuns : Obligations.NoRequestIsTakenWhileAnOperationRuns := by
  intro s t hb hpk
  refine ⟨by simp [State.outputs, hb, hpk], fun hs => ?_⟩
  rcases step_cases hs with ⟨-, rfl⟩ | ⟨-, -, -, -, rfl⟩ | ⟨-, hb' | hpk', -⟩
  · rfl
  · obtain ⟨-, -, -, requests, -⟩ := proceed_frame s.clearRsp
    exact requests
  · exact absurd (hb.symm.trans hb') nofun
  · exact absurd hpk hpk'

/-- Settles O2: the conditions on the fields as numbers, and the step of a block that takes an illegal header. -/
theorem illegalHeaderIsRefusedAsOneWord : Obligations.IllegalHeaderIsRefusedAsOneWord := by
  refine ⟨fun h => ?_, fun s h ws hr he hq hd => ⟨?_, rfl⟩⟩
  · obtain ⟨opc, rsv, f, arg⟩ := header_fields_toNat h
    rw [decodeHeader_eq_none_iff, ← opc, ← rsv, ← f, ← arg]
    simp [BitVec.toNat_eq]
  · obtain ⟨hb, hc, hp, hpk, htx, hdl⟩ := (ended_iff s).1 he
    rw [step_illegal (w := h) (rest := ws) hr (.inl hb)
      (by rw [hpk, hq]; exact decodePacket_cons_illegal hd ws)]
    simp [respond, State.refused, hb, hc, hp, hpk, htx, hdl]

end Sys2Proof.Machine
end

section
/-! SUPPORT. The bytes of a plan on the wire (R60, R76, R77, R78): the enable bit, which strobes over one unmoving byte,
the two nibbles of a logical byte, and the bytes of an operation in progress. -/

namespace Sys2Proof.Machine

/-! ### The enable bit -/

theorem blOf_enable_clear (bl : Bool) : (blOf bl).getLsbD 2 = false := by
  cases bl <;> rfl

/-- With the enable bit of the nibble clear, a nibble cycle writes one byte three times, the second time with the
enable bit set (R72). -/
theorem writesOf_nibbleCycle_of_enable_clear {c : Config} {n bl : Byte} (h : n.getLsbD 2 = false) :
    writesOf (nibbleCycle c n bl) = [n ||| bl, n ||| bl ||| 0x04, n ||| bl] := by
  have moved : n ||| enBit ||| bl = n ||| bl ||| 0x04 := by
    rw [BitVec.or_assoc, BitVec.or_comm enBit bl, ← BitVec.or_assoc]
    rfl
  rw [writesOf_nibbleCycle, nibble_masked h, moved]

theorem Strobes.append {p q : List Byte} (hp : Strobes p) (hq : Strobes q) : Strobes (p ++ q) := by
  induction hp with
  | nil => exact hq
  | cycle w rest hw _ ih => exact .cycle w _ hw ih

/-- A strobed list of bytes ends with the enable bit clear. -/
theorem Strobes.last_enable_clear {p : List Byte} (h : Strobes p) {w : Byte} (hw : p.getLast? = some w) :
    w.getLsbD 2 = false := by
  induction h with
  | nil => cases hw
  | cycle v rest hv hrest ih =>
    cases hrest with
    | nil => cases hw; exact hv
    | cycle u rest hu _ => exact ih (by simpa using hw)

theorem nibbleCycle_strobes (c : Config) {n : Byte} (bl : Bool) (h : n.getLsbD 2 = false) :
    Strobes (writesOf (nibbleCycle c n (blOf bl))) := by
  rw [writesOf_nibbleCycle_of_enable_clear h]
  exact .cycle _ [] (by rw [BitVec.getLsbD_or, h, blOf_enable_clear, Bool.or_false]) .nil

theorem sendByte_strobes (c : Config) (b : Byte) (m bl : Bool) :
    Strobes (writesOf (sendByte c b (modeOf m) (blOf bl))) := by
  obtain ⟨high, low⟩ := nibble_enable_clear b m
  rw [sendByte, writesOf_append]
  exact (nibbleCycle_strobes c bl high).append (nibbleCycle_strobes c bl low)

theorem sendAll_strobes (c : Config) (bl : Bool) (xs : List LogicalByte) :
    Strobes (writesOf (sendAll c (blOf bl) xs)) := by
  induction xs with
  | nil => exact .nil
  | cons x xs ih =>
    rw [sendAll, writesOf_append]
    exact (sendByte_strobes c x.byte x.data bl).append ih

theorem rawPhase_strobes {c : Config} (bl : Bool) (h : c.initNibble.getLsbD 2 = false) :
    Strobes (writesOf (rawPhase c (blOf bl))) := by
  have cycle := nibbleCycle_strobes c bl h
  simpa [rawPhase, initNibbleCount, List.replicate_succ, -writesOf_nibbleCycle] using
    cycle.append (cycle.append (cycle.append cycle))

theorem initPlan_strobes {c : Config} (bl : Bool) (n : Byte) (h : c.initNibble.getLsbD 2 = false) :
    Strobes (writesOf (initPlan c (blOf bl) n)) := by
  have settle : writesOf [.delay c.tInitSettle] = [] := rfl
  rw [initPlan, writesOf_append, writesOf_append, settle, List.append_nil]
  exact (rawPhase_strobes bl h).append (sendAll_strobes c bl _)

/-- What an operation that is taken has to write: the backlight bit alone for SET_BACKLIGHT (R116), strobed bytes for
every other; and nothing for one that is refused. -/
theorem accept_writes {i : Instr} {s : State} (h : s.config.initNibble.getLsbD 2 = false) :
    writesOf (accept i s).plan = [] ∨
    ((∃ on, i = .setBacklight on) ∧ writesOf (accept i s).plan = [blOf (accept i s).backlight]) ∨
    ((∀ on, i ≠ .setBacklight on) ∧ Strobes (writesOf (accept i s).plan)) := by
  rcases accept_cases i s with ⟨e, -, -⟩ | ⟨n, -, -, e⟩ | ⟨n, rfl, -, -, e⟩ | ⟨on, rfl, -, e⟩ | ⟨-, hb, -, e⟩ <;>
    rw [e]
  · exact .inl rfl
  · exact .inl rfl
  · exact .inr (.inr ⟨nofun, initPlan_strobes s.config.blInit n h⟩)
  · exact .inr (.inl ⟨⟨on, rfl⟩, rfl⟩)
  · exact .inr (.inr ⟨fun on hi => hb (hi ▸ rfl), sendAll_strobes s.config s.backlight _⟩)

/-- Settles O14: nothing, one byte, or strobed bytes. -/
theorem enableIsPulsedOverOneUnmovingByte : Obligations.EnableIsPulsedOverOneUnmovingByte := by
  intro i s hn
  rcases accept_writes (i := i) hn with e | ⟨⟨on, hi⟩, e⟩ | ⟨hi, strobes⟩
  · rw [e]
    exact ⟨nofun, fun _ => .nil, nofun⟩
  · have clear := blOf_enable_clear (accept i s).backlight
    rw [e]
    refine ⟨fun _ w hw => ?_, fun h => absurd hi (h on), ?_⟩
    · obtain rfl := List.mem_singleton.1 hw
      exact ⟨rfl, clear⟩
    · rintro w ⟨⟩
      exact clear
  · exact ⟨fun ⟨on, h⟩ => absurd h (hi on), fun _ => strobes, fun _ => strobes.last_enable_clear⟩

/-! ### The two nibbles of a logical byte -/

/-- The bits below a nibble, register-select and backlight, lie in the lower half of the byte (R59). -/
theorem lowBits_fields (m bl : Bool) :
    (modeOf m ||| blOf bl) >>> 4 = 0#8 ∧ (modeOf m ||| blOf bl) &&& 0xF0 = 0#8 ∧
    (modeOf m ||| blOf bl).getLsbD 0 = m := by
  cases m <;> cases bl <;> decide

/-- The upper half of a byte, shifted down or not, needs no mask. -/
theorem and_highHalf_ushiftRight (b : Byte) : (b &&& 0xF0) >>> 4 = b >>> 4 := by
  apply BitVec.eq_of_getLsbD_eq
  intro i hi
  interval_cases i <;> simp

theorem shiftLeft_ushiftRight (b : Byte) : (b <<< 4) >>> 4 = b &&& 0x0F := by
  apply BitVec.eq_of_getLsbD_eq
  intro i hi
  interval_cases i <;> simp

/-- A byte is its two halves. -/
theorem halves_or (b : Byte) : (b &&& 0xF0) ||| (b &&& 0x0F) = b := by
  rw [← BitVec.and_or_distrib_left]
  exact BitVec.and_allOnes

/-- The high nibble on the wire: the upper half of its byte above, the mode in bit 0 (R74). -/
theorem highNibble_fields (b : Byte) (m bl : Bool) :
    (highNibble b (modeOf m) ||| blOf bl) >>> 4 = b >>> 4 ∧
    (highNibble b (modeOf m) ||| blOf bl) &&& 0xF0 = b &&& 0xF0 ∧
    (highNibble b (modeOf m) ||| blOf bl).getLsbD 0 = m := by
  obtain ⟨shifted, masked, mode⟩ := lowBits_fields m bl
  have split : highNibble b (modeOf m) ||| blOf bl = (b &&& 0xF0) ||| (modeOf m ||| blOf bl) := by
    rw [highNibble, BitVec.or_comm (modeOf m), BitVec.or_assoc]
  rw [split]
  refine ⟨?_, ?_, ?_⟩
  · rw [BitVec.ushiftRight_or_distrib, shifted, BitVec.or_zero, and_highHalf_ushiftRight]
  · rw [BitVec.and_or_distrib_right, masked, BitVec.or_zero, BitVec.and_assoc, BitVec.and_self]
  · rw [BitVec.getLsbD_or, mode]
    simp

/-- The low nibble on the wire: the lower half of its byte above, the mode in bit 0 (R74). -/
theorem lowNibble_fields (b : Byte) (m bl : Bool) :
    (lowNibble b (modeOf m) ||| blOf bl) >>> 4 = b &&& 0x0F ∧
    (lowNibble b (modeOf m) ||| blOf bl).getLsbD 0 = m := by
  obtain ⟨shifted, -, mode⟩ := lowBits_fields m bl
  have split : lowNibble b (modeOf m) ||| blOf bl = (b <<< 4) ||| (modeOf m ||| blOf bl) := by
    rw [lowNibble, shiftLeft_masked, BitVec.or_comm (modeOf m), BitVec.or_assoc]
  rw [split]
  refine ⟨?_, ?_⟩
  · rw [BitVec.ushiftRight_or_distrib, shifted, BitVec.or_zero, shiftLeft_ushiftRight]
  · rw [BitVec.getLsbD_or, mode]
    simp

/-- Settles O10: the two nibbles, each written with the enable bit low, high, low, and the halves they carry. -/
theorem sendByteCanBeDecoded : Obligations.SendByteCanBeDecoded := by
  intro c b m bl
  obtain ⟨enable₀, enable₃⟩ := nibble_enable_clear b m
  obtain ⟨high, masked, mode₀⟩ := highNibble_fields b m bl
  obtain ⟨low, mode₃⟩ := lowNibble_fields b m bl
  have joined : ((highNibble b (modeOf m) ||| blOf bl) &&& (0xF0 : Byte)) |||
      ((lowNibble b (modeOf m) ||| blOf bl) >>> 4) = b := by
    rw [masked, low, halves_or]
  refine ⟨highNibble b (modeOf m) ||| blOf bl, lowNibble b (modeOf m) ||| blOf bl, ?_, high, low, joined.symm,
    mode₀, mode₃, ?_, ?_, fun w hw => (sendByte_bits (mem_writesOf.1 hw)).symm⟩
  · rw [sendByte, writesOf_append, writesOf_nibbleCycle_of_enable_clear enable₀,
      writesOf_nibbleCycle_of_enable_clear enable₃]
    rfl
  · rw [BitVec.getLsbD_or, enable₀, blOf_enable_clear, Bool.or_false]
  · rw [BitVec.getLsbD_or, enable₃, blOf_enable_clear, Bool.or_false]

/-- Settles O11: the byte sender run on each example. -/
theorem sendByteWorkedExamples : Obligations.SendByteWorkedExamples := ⟨rfl, rfl, rfl, rfl⟩

/-! ### The bytes of an operation in progress -/

/-- Settles O12: bit 1 of a planned byte is bit 1 of `INIT_NIBBLE` or clear. -/
theorem bitOneOfEveryPlannedByteIsZero : Obligations.BitOneOfEveryPlannedByteIsZero :=
  fun _ _ hn _ hb => (accept_bits hb).1 hn

/-- Every byte a run writes, leaves on the port or has still to write was planned (R79). -/
theorem proceed_bytes_planned {s : State} (htx : s.txPort = none) :
    (∃ tr, (proceed s).trace = s.trace ++ tr ∧ ∀ e ∈ tr, ∀ b, e.byte = some b → .write b ∈ s.plan) ∧
    (∀ b, (proceed s).txPort = some b → .write b ∈ s.plan) ∧
    (∀ b, .write b ∈ (proceed s).plan → .write b ∈ s.plan) := by
  refine ⟨?_, ?_⟩
  · obtain ⟨tr, htr, front, -⟩ := proceed_trace s
    refine ⟨tr, htr, fun e he b hb => ?_⟩
    have planned : e.planned = .write b := by cases e <;> cases hb <;> rfl
    exact planned ▸ front.subset (List.mem_map_of_mem he)
  · rcases proceed_cases s with ⟨-, e⟩ | ⟨rest, -, -, e⟩ | ⟨rest, done, b, left, -, -, -, e⟩ |
      ⟨done, b, left, -, hp, e⟩ <;> rw [e]
    · exact ⟨by simp [htx], fun _ => id⟩
    · exact ⟨nofun, nofun⟩
    · exact ⟨nofun, nofun⟩
    · rw [hp]
      refine ⟨?_, fun _ => List.mem_append_right done⟩
      rintro _ ⟨⟩
      simp

/-- Settles O13: every such byte was planned at acceptance, and the run leaves the backlight flag. -/
theorem backlightIsMergedIntoEveryByte : Obligations.BacklightIsMergedIntoEveryByte := by
  intro i s t hn h
  rw [exec_eq_proceed] at h
  cases h
  obtain ⟨-, untouched, -⟩ := accept_frame i s
  obtain ⟨-, -, -, -, -, -, -, -, backlight⟩ := proceed_frame (accept i s)
  obtain ⟨⟨tr, htr, written⟩, onPort, left⟩ := proceed_bytes_planned (accept_txPort i s)
  have carried : ∀ b, .write b ∈ (accept i s).plan → b.getLsbD 3 = (proceed (accept i s)).backlight :=
    fun b hb => ((accept_bits hb).2 hn).trans backlight.symm
  exact ⟨tr, untouched ▸ htr, fun e he b hb => carried b (written e he b hb), fun b hb => carried b (onPort b hb),
    fun b hb => carried b (left b hb), backlight.symm⟩

end Sys2Proof.Machine
end

section
/-! SUPPORT. What a plan adds up to (R37, R168): its writes, its delays and the ticks it waits, from the nibble cycle up
to the plan of each operation. -/

namespace Sys2Proof.Machine

/-- The delays of `k` nibble cycles (R72). -/
def cycleDelays (c : Config) (k : Nat) : List Nat := (List.replicate k [c.tEnHigh, c.tEnLow]).flatten

theorem cycleDelays_add (c : Config) (j k : Nat) : cycleDelays c (j + k) = cycleDelays c j ++ cycleDelays c k := by
  rw [cycleDelays, List.replicate_add, List.flatten_append]
  rfl

theorem sum_cycleDelays (c : Config) (k : Nat) : (cycleDelays c k).sum = k * (c.tEnHigh + c.tEnLow) := by
  simp [cycleDelays, List.sum_flatten]

/-- Two nibble cycles (R74). -/
theorem delaysOf_sendByte (c : Config) (b m bl : Byte) : delaysOf (sendByte c b m bl) = cycleDelays c 2 := rfl

/-- Two nibble cycles for each logical byte (R74). -/
theorem delaysOf_sendAll (c : Config) (bl : Byte) (xs : List LogicalByte) :
    delaysOf (sendAll c bl xs) = cycleDelays c (2 * xs.length) := by
  induction xs with
  | nil => rfl
  | cons x xs ih =>
    have count : 2 * (x :: xs).length = 2 + 2 * xs.length := by simp; omega
    rw [sendAll, delaysOf_append, ih, delaysOf_sendByte, count, cycleDelays_add]

/-- Twelve nibble cycles, four raw and eight for the four commands, then the settle hold (R90). -/
theorem delaysOf_initPlan (c : Config) (bl n : Byte) :
    delaysOf (initPlan c bl n) = cycleDelays c 12 ++ [c.tInitSettle] := rfl

/-- In READY, SET_BACKLIGHT is taken with one write to make (R116). -/
theorem accept_setBacklight_ready {s : State} (hp : s.phase = .ready) (on : Bool) :
    accept (.setBacklight on) s = startOp (.setBacklight on) [.write (blOf on)] { s with backlight := on } := by
  simp [accept, acceptSetBacklight, whenReady, hp, State.bl]

/-- In READY an operation other than INIT and SET_BACKLIGHT is taken with six writes and two pairs of holds to make for
each of its logical bytes (R74). -/
theorem accept_ready_counts {i : Instr} {s : State} (hp : s.phase = .ready) (h₁ : i.opcode ≠ .init)
    (h₂ : i.opcode ≠ .setBacklight) :
    (writesOf (accept i s).plan).length = 6 * (logicalBytes i).length ∧
    delaysOf (accept i s).plan = cycleDelays s.config (2 * (logicalBytes i).length) := by
  rw [accept_ready hp h₁ h₂, startOp_plan]
  exact ⟨writesOf_sendAll_length _ _ _, delaysOf_sendAll _ _ _⟩

/-- DISPLAY_STRING sends its addressing command and its characters (R105). -/
theorem logicalBytes_displayString_length (l : Bool) (pos : Byte) (text : List Byte) :
    (logicalBytes (.displayString l pos text)).length = 1 + text.length := by
  simp [logicalBytes, Nat.add_comm]

/-- Settles O15: six writes for each logical byte, 36 for INIT, one for SET_BACKLIGHT. -/
theorem writeCountOfEachOperation : Obligations.WriteCountOfEachOperation := by
  refine fun s => ⟨fun hv n hn => ?_, fun hp => ⟨fun b => ?_, fun c m => ?_, fun l pos text => ?_, ?_, fun on => ?_⟩⟩
  · rw [accept_init hv ((lineCountOk_iff n).1 hn), startOp_plan, writesOf_initPlan_length]
  · exact (accept_ready_counts (i := .writeCommand b) hp nofun nofun).1
  · exact (accept_ready_counts (i := .writeChar c m) hp nofun nofun).1
  · rw [(accept_ready_counts (i := .displayString l pos text) hp nofun nofun).1, logicalBytes_displayString_length,
      Nat.mul_add]
  · exact (accept_ready_counts (i := .clear) hp nofun nofun).1
  · rw [accept_setBacklight_ready hp]
    rfl

/-- The delays of a plan, their sum and the number of its writes, as R168 lists them. -/
theorem totals_of_counts {p : List PlanEvent} {c : Config} {k w : Nat} (hc : c = Config.spec)
    (h : (writesOf p).length = w ∧ delaysOf p = cycleDelays c k) :
    delaysOf p = (List.replicate k [5, 1]).flatten ∧ ticksOf p = k * 6 ∧ (writesOf p).length = w := by
  obtain ⟨writes, delays⟩ := h
  subst hc
  exact ⟨delays, by rw [ticksOf, delays, sum_cycleDelays]; rfl, writes⟩

/-- Settles O16: the delays of each plan at the spec's holds, added up. -/
theorem delayTotalOfEachOperation : Obligations.DelayTotalOfEachOperation := by
  refine ⟨fun n bl => ⟨rfl, rfl, rfl⟩, fun b m bl => ⟨rfl, rfl, rfl⟩, fun s hc => ⟨fun hv n hn => ?_, fun hp =>
    ⟨fun b => ?_, fun c m => ?_, fun l pos text => ?_, ?_, fun on => ?_⟩⟩⟩
  · rw [accept_init hv ((lineCountOk_iff n).1 hn), startOp_plan, ticksOf, delaysOf_initPlan, List.sum_append,
      sum_cycleDelays, hc]
    exact ⟨rfl, rfl, writesOf_initPlan_length _ _ _⟩
  · exact totals_of_counts hc (accept_ready_counts (i := .writeCommand b) hp nofun nofun)
  · exact totals_of_counts hc (accept_ready_counts (i := .writeChar c m) hp nofun nofun)
  · have totals := totals_of_counts hc (accept_ready_counts (i := .displayString l pos text) hp nofun nofun)
    rw [logicalBytes_displayString_length, Nat.mul_add, Nat.mul_add, Nat.add_mul] at totals
    obtain ⟨delays, total, writes⟩ := totals
    exact ⟨delays, by omega, writes⟩
  · exact totals_of_counts hc (accept_ready_counts (i := .clear) hp nofun nofun)
  · rw [accept_setBacklight_ready hp]
    exact ⟨rfl, rfl, rfl⟩

/-- Settles O17: the plan computed, the same for every line count. -/
theorem initPlanEventByEvent : Obligations.InitPlanEventByEvent :=
  fun _ => ⟨rfl, rfl, rfl, rfl, rfl, rfl⟩

end Sys2Proof.Machine
end

section
/-! SUPPORT. DISPLAY_STRING, every write answered `ok` (R105, R108): operations that change no register, one after
another, send the logical bytes of all of them. -/

namespace Sys2Proof.Machine

/-! ### The addressing command -/

/-- The addressing command by numbers: the sum is modulo 256 (R106). -/
theorem addressCommand_eq (l : Bool) (pos : Byte) :
    addressCommand l pos = 0x80#8 ||| BitVec.ofNat 8 ((pos.toNat + if l then 0x40 else 0) % 256) := by
  have address : ddramAddress l pos = BitVec.ofNat 8 ((pos.toNat + if l then 0x40 else 0) % 256) := by
    apply BitVec.eq_of_toNat_eq
    have bound := pos.isLt
    cases l <;> simp [ddramAddress, BitVec.toNat_add]
    omega
  rw [addressCommand, address]
  rfl

/-! ### Logical bytes on the wire -/

/-- The wire events of logical bytes, every write answered `ok`, with the parameters and the backlight of `s`. -/
def State.wireBytes (s : State) (xs : List LogicalByte) : List WireEvent :=
  (xs.map fun x => wireByte s.config x.byte x.data s.backlight).flatten

theorem State.wireBytes_append (s : State) (xs ys : List LogicalByte) :
    s.wireBytes (xs ++ ys) = s.wireBytes xs ++ s.wireBytes ys := by
  simp [State.wireBytes]

/-- DISPLAY_STRING sends its addressing command with register-select 0, then each character with register-select 1
(R105). -/
theorem State.wireBytes_displayString (s : State) (l : Bool) (pos : Byte) (text : List Byte) :
    s.wireBytes (logicalBytes (.displayString l pos text)) =
      wireByte s.config (addressCommand l pos) false s.backlight ++
        (text.map fun c => wireByte s.config c true s.backlight).flatten := by
  simp [State.wireBytes, logicalBytes, controlByte, dataByte, Function.comp_def]

/-! ### Operations that change no register -/

/-- An operation that changes no register when it completes: it writes none at acceptance, and its commit records
nothing (R81). -/
structure KeepsRegisters (i : Instr) : Prop where
  notInit : i.opcode ≠ .init
  notBacklight : i.opcode ≠ .setBacklight
  commit : ∀ s, commit i s = s

theorem keepsRegisters_displayString (l : Bool) (pos : Byte) (text : List Byte) :
    KeepsRegisters (.displayString l pos text) :=
  ⟨nofun, nofun, fun s => commit_eq_self s nofun nofun nofun⟩

theorem keepsRegisters_addressCommand (l : Bool) (pos : Byte) :
    KeepsRegisters (.writeCommand (addressCommand l pos)) :=
  ⟨nofun, nofun, fun s => shadowUpdate_addressCommand s l pos⟩

theorem keepsRegisters_writeChar (c : Byte) : KeepsRegisters (.writeChar c true) :=
  ⟨nofun, nofun, fun _ => rfl⟩

/-- In READY such an operation, every write answered `ok`, adds its logical bytes to the trace and its response, and
leaves the rest. -/
theorem KeepsRegisters.exec_done {i : Instr} (h : KeepsRegisters i) {s : State} {rest : List Answer}
    (hp : s.phase = .ready) (ha : s.answers = oks (6 * (logicalBytes i).length) rest) :
    exec i s = .next (s.after (s.wireBytes (logicalBytes i)) rest .ok) := by
  rw [exec_ready_done hp h.notInit h.notBacklight ha, h.commit]
  rfl

theorem oks_add (j k : Nat) (rest : List Answer) : oks (j + k) rest = oks j (oks k rest) := by
  rw [oks, List.replicate_add, List.append_assoc]
  rfl

/-- Such operations in a row send their logical bytes in a row; each gives its own response. -/
theorem runOps_keepsRegisters {i : Instr} {is : List Instr} (h : ∀ j ∈ i :: is, KeepsRegisters j) {s : State}
    {rest : List Answer} (hp : s.phase = .ready)
    (ha : s.answers = oks (6 * ((i :: is).flatMap logicalBytes).length) rest) :
    runOps (i :: is) s = some
      { s.after (s.wireBytes ((i :: is).flatMap logicalBytes)) rest .ok with
        responses := s.responses ++ List.replicate (1 + is.length) .ok } := by
  induction is generalizing i s with
  | nil =>
    have first : KeepsRegisters i := h i List.mem_cons_self
    simp only [List.flatMap_cons, List.flatMap_nil, List.append_nil] at ha ⊢
    exact runOps_cons.2 ⟨_, first.exec_done hp ha, after_ended _ _ _ _, rfl⟩
  | cons j is ih =>
    have first : KeepsRegisters i := h i List.mem_cons_self
    rw [List.flatMap_cons, List.length_append, Nat.mul_add, oks_add] at ha
    refine runOps_cons.2 ⟨_, first.exec_done hp ha, after_ended _ _ _ _, ?_⟩
    refine (ih (fun k hk => h k (List.mem_cons_of_mem i hk)) (s := s.after _ _ .ok) hp rfl).trans ?_
    rw [List.flatMap_cons (x := i), State.wireBytes_append]
    simp [State.after, State.wireBytes, Nat.add_comm 1, List.replicate_succ]

/-- WRITE_COMMAND of the addressing command, then WRITE_CHAR of each character (R108). -/
def displayStringOps (l : Bool) (pos : Byte) (text : List Byte) : List Instr :=
  .writeCommand (addressCommand l pos) :: text.map fun c => .writeChar c true

theorem keepsRegisters_of_mem_displayStringOps {l : Bool} {pos : Byte} {text : List Byte} :
    ∀ i ∈ displayStringOps l pos text, KeepsRegisters i := by
  refine List.forall_mem_cons.2 ⟨keepsRegisters_addressCommand l pos, fun i hi => ?_⟩
  obtain ⟨c, -, rfl⟩ := List.mem_map.1 hi
  exact keepsRegisters_writeChar c

/-- They send the logical bytes of DISPLAY_STRING (R105). -/
theorem flatMap_displayStringOps (l : Bool) (pos : Byte) (text : List Byte) :
    (displayStringOps l pos text).flatMap logicalBytes = logicalBytes (.displayString l pos text) := by
  have characters : (text.flatMap fun c => logicalBytes (.writeChar c true)) = text.map dataByte :=
    List.map_eq_flatMap.symm
  rw [displayStringOps, List.flatMap_cons, List.flatMap_map, characters]
  rfl

/-! ### DISPLAY_STRING -/

/-- DISPLAY_STRING, every write answered `ok`. -/
theorem exec_displayString_done {s : State} {text : List Byte} {rest : List Answer} (hp : s.phase = .ready)
    (ha : s.answers = oks (6 + 6 * text.length) rest) (l : Bool) (pos : Byte) :
    exec (.displayString l pos text) s =
      .next (s.after (s.wireBytes (logicalBytes (.displayString l pos text))) rest .ok) := by
  refine (keepsRegisters_displayString l pos text).exec_done hp ?_
  rw [ha, logicalBytes_displayString_length, Nat.mul_add]

/-- Settles O30: the logical bytes of the operation, its addressing command by numbers. -/
theorem displayStringCompletes : Obligations.DisplayStringCompletes := by
  intro s l pos text rest hp ha
  rw [exec_displayString_done hp ha, State.wireBytes_displayString, addressCommand_eq]

/-- Settles O31: both send the same logical bytes and change no register. -/
theorem displayStringIsACommandThenCharacters : Obligations.DisplayStringIsACommandThenCharacters := by
  intro s l pos text rest hp ha
  have same := flatMap_displayStringOps l pos text
  have ran := runOps_keepsRegisters (rest := rest) (keepsRegisters_of_mem_displayStringOps (l := l) (pos := pos)) hp
    (by rw [← displayStringOps, same, logicalBytes_displayString_length, ha, Nat.mul_add])
  rw [← displayStringOps, same, List.length_map] at ran
  exact ⟨_, _, exec_displayString_done hp ha l pos, ran, rfl, rfl⟩

end Sys2Proof.Machine
end

section
/-! SUPPORT. The small-step view (R82, R155): runs of ticks, through an event, through a plan, and through the words of
a packet, to where the step of the big-step view ends. -/

namespace Sys2Proof.Machine

/-! ### Runs of ticks -/

/-- A run of at least one tick leads from `s` to `t`. -/
def TicksTo (s t : State) : Prop := ∃ n, 0 < n ∧ ticks n s = t

theorem ticks_add (m n : Nat) (s : State) : ticks (m + n) s = ticks n (ticks m s) := by
  induction m generalizing s with
  | zero => rw [Nat.zero_add]; rfl
  | succ m ih => rw [Nat.succ_add]; exact ih (tick s)

theorem TicksTo.of_tick {s t : State} (h : tick s = t) : TicksTo s t := ⟨1, Nat.one_pos, h⟩

theorem TicksTo.trans {s t u : State} (h₁ : TicksTo s t) (h₂ : TicksTo t u) : TicksTo s u := by
  obtain ⟨m, hm, rfl⟩ := h₁
  obtain ⟨n, -, rfl⟩ := h₂
  exact ⟨m + n, by omega, ticks_add m n s⟩

/-- A tick starts with the response port empty (R46). -/
theorem tick_clearRsp (s : State) : tick s.clearRsp = tick s := rfl

theorem TicksTo.of_clearRsp {s t : State} (h : TicksTo s.clearRsp t) : TicksTo s t := by
  obtain ⟨_ | n, hn, rfl⟩ := h
  · cases hn
  · exact ⟨n + 1, hn, congrArg (ticks n) (tick_clearRsp s).symm⟩

/-! ### The operation in progress -/

/-- Out of reset, busy and taking no packet, which is with an operation in progress (R19); the response port is
empty. -/
structure State.Runs (s : State) : Prop where
  rst : s.rst = false
  busy : s.busy = true
  packet : s.packet = []
  rsp : s.rsp = none

/-- The tick of an operation in progress is an action of its plan (R82). -/
theorem State.Runs.tick_eq {s : State} (h : s.Runs) : tick s = tickPlan s := by
  simp [tick, h.rst, h.busy, h.packet, clearRsp_of_rsp_none h.rsp]

theorem State.Runs.tick_delay {s : State} {n : Nat} {p : List PlanEvent} (h : s.Runs)
    (hp : s.plan = .delay n :: p) : tick s = tickDelay n p s := by
  rw [h.tick_eq, tickPlan, hp]

theorem State.Runs.tick_write {s : State} {b : Byte} {p : List PlanEvent} (h : s.Runs)
    (hp : s.plan = .write b :: p) : tick s = tickWrite b p s := by
  rw [h.tick_eq, tickPlan, hp]

/-- A delay counter that stands at `k + 1` counts down to the end of its event (R155). -/
theorem ticksTo_countdown {n k : Nat} {p : List PlanEvent} {s : State} (h : s.Runs) (hp : s.plan = .delay n :: p)
    (hk : s.delayLeft = k + 1) : TicksTo s (finishEvent (.delayed n) p s) := by
  induction k generalizing s with
  | zero => exact .of_tick (by simp [h.tick_delay hp, tickDelay, hk])
  | succ k ih =>
    have counted : tick s = { s with delayLeft := k + 1 } := by simp [h.tick_delay hp, tickDelay, hk]
    exact (TicksTo.of_tick counted).trans (ih (s := { s with delayLeft := k + 1 }) { h with } hp rfl)

/-- A delay at the head of the plan is counted to its end, from wherever the counter stands. -/
theorem ticksTo_delay {n : Nat} {p : List PlanEvent} {s : State} (h : s.Runs) (hp : s.plan = .delay n :: p) :
    TicksTo s (finishEvent (.delayed n) p s) := by
  cases hd : s.delayLeft with
  | succ k => exact ticksTo_countdown h hp hd
  | zero =>
    cases n with
    | zero => exact .of_tick (by simp [h.tick_delay hp, tickDelay, hd])
    | succ n =>
      have loaded : tick s = { s with delayLeft := n + 1 } := by simp [h.tick_delay hp, tickDelay, hd]
      exact (TicksTo.of_tick loaded).trans (ticksTo_countdown (s := { s with delayLeft := n + 1 }) { h with } hp rfl)

/-- A delay at the head of the plan is the first event of the run (R79). -/
theorem proceed_delay {n : Nat} {p : List PlanEvent} {s : State} (hb : s.busy = true)
    (hp : s.plan = .delay n :: p) : proceed (finishEvent (.delayed n) p s) = proceed s := by
  rw [← proceed_port (s := s) hb none 0]
  simp [proceed, finishEvent, hb, hp, runPlan, Run.after]

/-- A write answered `ok` at the head of the plan is the first event of the run (R79). -/
theorem proceed_write_ok {b : Byte} {p : List PlanEvent} {as : List Answer} {s : State} (hb : s.busy = true)
    (hp : s.plan = .write b :: p) (ha : s.answers = .ok :: as) :
    proceed (finishEvent (.wrote b) p (s.withAnswers as)) = proceed s := by
  rw [← proceed_port (s := s) hb none 0]
  simp [proceed, finishEvent, State.withAnswers, hb, hp, ha, runPlan, Run.after]

/-- A write at the head of the plan is put on the port (R34). -/
theorem tick_present {b : Byte} {p : List PlanEvent} {s : State} (h : s.Runs) (hp : s.plan = .write b :: p)
    (htx : s.txPort = none) : tick s = { s with txPort := some b } := by
  simp [h.tick_write hp, tickWrite, htx]

section
variable {b : Byte} {p : List PlanEvent} {s : State} (h : s.Runs) (hp : s.plan = .write b :: p)
  (htx : s.txPort = some b)
include h hp htx

/-- A silent transport leaves the operation waiting (R160). -/
theorem tick_silent (hd : s.delayLeft = 0) (ha : s.answers = []) : tick s = proceed s := by
  have waits : runPlan s.plan s.answers =
      { trace := [], plan := .write b :: p, answers := [], ending := .waiting } := by rw [hp, ha, runPlan]
  have unchanged : tickWrite b p s = s := by simp [tickWrite, htx, ha]
  rw [proceed_waiting h.busy waits, h.tick_write hp, unchanged, ← hp, ← ha, ← hd, ← htx, List.append_nil]

theorem tick_answered_ok {as : List Answer} (ha : s.answers = .ok :: as) :
    tick s = finishEvent (.wrote b) p (s.withAnswers as) := by
  simp [h.tick_write hp, tickWrite, htx, ha, State.withAnswers]

theorem tick_answered_fail {as : List Answer} (ha : s.answers = .fail :: as) : tick s = proceed s := by
  have failed : runPlan s.plan s.answers =
      { trace := [.writeFailed b], plan := [], answers := as, ending := .failed } := by rw [hp, ha, runPlan]
  rw [proceed_failed h.busy failed, h.tick_write hp]
  simp [tickWrite, htx, ha, failEntry, respond, State.after]

/-- A write on the port is run to where `proceed` takes it, if the plan behind it is. -/
theorem ticksTo_answered (hd : s.delayLeft = 0)
    (behind : ∀ as, TicksTo (finishEvent (.wrote b) p (s.withAnswers as))
      (proceed (finishEvent (.wrote b) p (s.withAnswers as)))) : TicksTo s (proceed s) := by
  rcases ha : s.answers with _ | ⟨_ | _, as⟩
  · exact .of_tick (tick_silent h hp htx hd ha)
  · exact (TicksTo.of_tick (tick_answered_ok h hp htx ha)).trans (proceed_write_ok h.busy hp ha ▸ behind as)
  · exact .of_tick (tick_answered_fail h hp htx ha)

end

/-- Where the plan begins with no delay, none is being counted (R155). -/
theorem State.Inv.delayLeft_eq_zero {s : State} (h : s.Inv) (hp : ∀ n p, s.plan ≠ .delay n :: p) :
    s.delayLeft = 0 := by
  by_contra hd
  obtain ⟨n, p, e, -⟩ := h.counting hd
  exact hp n p e

/-- An operation in progress is run by ticks to where `proceed` takes it (R80, R82). -/
theorem ticksTo_proceed {s : State} (h : s.Runs) (hi : s.Inv) : TicksTo s (proceed s) := by
  generalize hp : s.plan = p
  induction p generalizing s with
  | nil =>
    have hd : s.delayLeft = 0 := hi.delayLeft_eq_zero (by simp [hp])
    have done : runPlan s.plan s.answers = { trace := [], plan := [], answers := s.answers, ending := .done } := by
      rw [hp, runPlan]
    refine .of_tick ?_
    rw [h.tick_eq, tickPlan, hp, proceed_done h.busy done]
    simp [← hp, ← hd]
  | cons e p ih =>
    cases e with
    | delay n =>
      have rest := ih (s := finishEvent (.delayed n) p s) { h with }
        (hi.at_plan h.busy h.packet _ _ nofun (absurd rfl)) rfl
      rw [proceed_delay h.busy hp] at rest
      exact (ticksTo_delay h hp).trans rest
    | write b =>
      have hd : s.delayLeft = 0 := hi.delayLeft_eq_zero (by simp [hp])
      have behind : ∀ as, TicksTo (finishEvent (.wrote b) p (s.withAnswers as))
          (proceed (finishEvent (.wrote b) p (s.withAnswers as))) :=
        fun as => ih { h with } (hi.at_plan h.busy h.packet _ _ nofun (absurd rfl)) rfl
      cases htx : s.txPort with
      | some b' =>
        obtain rfl : b = b' := by simpa [hp, headWrite] using hi.port b' htx
        exact ticksTo_answered h hp htx hd behind
      | none =>
        have answered := ticksTo_answered (s := { s with txPort := some b }) { h with } hp rfl hd behind
        rw [proceed_port (s := s) h.busy] at answered
        exact (TicksTo.of_tick (tick_present h hp htx)).trans answered

/-! ### Taking words -/

theorem exists_packet_of_decodePacket {ws rest : List ReqWord} {i : Instr} (h : decodePacket ws = .packet i rest) :
    ∃ pkt, ws = pkt ++ rest ∧ ∀ more, decodePacket (pkt ++ more) = .packet i more := by
  rcases decodePacket_eq_packet_iff.1 h with ⟨w, he, rfl⟩ | ⟨l, pos, len, cs, rfl, hlen, rfl⟩
  · exact ⟨[w], rfl, fun more => decodePacket_eq_packet_iff.2 (.inl ⟨w, he, rfl⟩)⟩
  · exact ⟨headerWord 0x3 l pos :: len :: cs, rfl, fun more => decodePacket_cons_string l pos hlen more⟩

/-- A packet that a word makes whole ends with that word (R57). -/
theorem decodePacket_last_word {ws rest : List ReqWord} {w : ReqWord} {i : Instr}
    (hinc : decodePacket ws = .incomplete) (h : decodePacket (ws ++ [w]) = .packet i rest) (more : List ReqWord) :
    decodePacket (ws ++ w :: more) = .packet i more := by
  obtain ⟨pkt, e, reads⟩ := exists_packet_of_decodePacket h
  rcases List.eq_nil_or_concat' rest with rfl | ⟨init, last, rfl⟩
  · rw [← reads more, List.append_cons, e, List.append_nil]
  · have whole : ws = pkt ++ init := (List.append_inj' (e.trans (List.append_assoc pkt init [last]).symm) rfl).1
    rw [whole, reads] at hinc
    cases hinc

theorem decodePacket_eq_illegal_iff {ws rest : List ReqWord} {h : ReqWord} :
    decodePacket ws = .illegal h rest ↔ ws = h :: rest ∧ decodeHeader h = none := by
  constructor
  · intro hd
    unfold decodePacket at hd
    split at hd
    · cases hd
    · split at hd
      · rename_i hillegal
        cases hd
        exact ⟨rfl, hillegal⟩
      · cases hd
      · split at hd
        · cases hd
        · split at hd <;> cases hd
  · rintro ⟨rfl, hillegal⟩
    exact decodePacket_cons_illegal hillegal rest

/-- A word that makes an unfinished packet illegal is an illegal header, and the packet was empty (R58). -/
theorem decodePacket_illegal_word {ws rest : List ReqWord} {w h : ReqWord} (hinc : decodePacket ws = .incomplete)
    (hd : decodePacket (ws ++ [w]) = .illegal h rest) (more : List ReqWord) :
    decodePacket (ws ++ w :: more) = .illegal h more := by
  obtain ⟨e, hillegal⟩ := decodePacket_eq_illegal_iff.1 hd
  cases ws with
  | nil =>
    obtain rfl : w = h := by simpa using congrArg List.head? e
    exact decodePacket_cons_illegal hillegal more
  | cons v ws =>
    obtain rfl : v = h := by simpa using congrArg List.head? e
    cases hinc.symm.trans (decodePacket_cons_illegal hillegal ws)

/-- Acceptance writes `busy` whatever it was (R47). -/
theorem accept_busy (i : Instr) (s : State) (busy : Bool) : accept i { s with busy := busy } = accept i s := by
  cases i <;> rfl

/-- An operation that is taken runs, unless it is refused (R126). -/
theorem accept_runs {i : Instr} {s : State} (hr : s.rst = false) (hrsp : s.rsp = none)
    (hb : (accept i s).busy = true) : (accept i s).Runs := by
  rcases accept_cases i s with ⟨e, -, -⟩ | ⟨n, -, -, e⟩ | ⟨n, rfl, -, -, e⟩ | ⟨on, rfl, -, e⟩ | ⟨-, -, -, e⟩ <;>
    rw [e] at hb ⊢
  · cases hb
  · cases hb
  all_goals exact ⟨hr, rfl, rfl, hrsp⟩

/-- A tick that accepts an operation is the first of a run of ticks to where executing it ends. -/
theorem ticksTo_accept {i : Instr} {s v : State} (ht : tick s = accept i v) (hr : v.rst = false) (hrsp : v.rsp = none)
    (hv : v.RegInv) : TicksTo s (proceed (accept i v)) := by
  cases hb : (accept i v).busy with
  | false => exact .of_tick (ht.trans (proceed_idle hb).symm)
  | true => exact (TicksTo.of_tick ht).trans (ticksTo_proceed (accept_runs hr hrsp hb) (accept_inv i hv))

/-- The word `w` is taken, and `ws` are left on the channel (R47). -/
def State.takeWord (s : State) (w : ReqWord) (ws : List ReqWord) : State :=
  { s with busy := true, packet := s.packet ++ [w], requests := ws, rsp := none }

theorem State.takeWord_packet_ne_nil (s : State) (w : ReqWord) (ws : List ReqWord) :
    (s.takeWord w ws).packet ≠ [] := by
  simp [State.takeWord]

/-- A step that takes words takes the same packet when the first of them was taken before (R47, R57). -/
theorem step_word_taken {s : State} {w : ReqWord} {ws : List ReqWord} (hr : s.rst = false)
    (hb : s.busy = false ∨ s.packet ≠ []) (hq : s.requests = w :: ws) : step (s.takeWord w ws) = step s := by
  have words : (s.packet ++ [w]) ++ ws = s.packet ++ s.requests := by simp [hq]
  have hb' : (s.takeWord w ws).busy = false ∨ (s.takeWord w ws).packet ≠ [] := .inr (s.takeWord_packet_ne_nil w ws)
  cases hd : decodePacket (s.packet ++ s.requests) with
  | packet i rest =>
    rw [step_packet hr hb hd, exec_eq_proceed, ← accept_busy i _ true, ← exec_eq_proceed]
    exact step_packet (s := s.takeWord w ws) hr hb' (words ▸ hd)
  | illegal h rest =>
    rw [step_illegal hr hb hd]
    exact step_illegal (s := s.takeWord w ws) hr hb' (words ▸ hd)
  | incomplete =>
    rw [step_incomplete hr hb hd]
    refine (step_incomplete (s := s.takeWord w ws) hr hb' (words ▸ hd)).trans ?_
    simp [State.takeWord, hq]

/-- Out of reset with no operation running, a tick takes a word (R82). -/
theorem tick_taking {s : State} (hr : s.rst = false) (hb : s.busy = false ∨ s.packet ≠ []) :
    tick s = tickWord s.clearRsp := by
  simp [tick, hr, not_running hb]

/-- A step that takes words is a run of ticks, word by word. -/
theorem ticksTo_step_taking {s t : State} (hr : s.rst = false) (hb : s.busy = false ∨ s.packet ≠ [])
    (hinc : decodePacket s.packet = .incomplete) (hi : s.RegInv) (hs : step s = .next t) : TicksTo s t := by
  generalize hq : s.requests = words
  induction words generalizing s with
  | nil =>
    rw [step_incomplete hr hb (by rw [hq, List.append_nil]; exact hinc)] at hs
    cases hs
    refine .of_tick ?_
    simp [tick_taking hr hb, tickWord, hq, State.clearRsp]
  | cons w ws ih =>
    have word := tick_taking hr hb
    cases hd : decodePacket (s.packet ++ [w]) with
    | packet i rest =>
      have whole := decodePacket_last_word hinc hd ws
      rw [step_packet hr hb (hq ▸ whole), exec_eq_proceed] at hs
      cases hs
      exact ticksTo_accept (by simp [word, tickWord, hq, hd, State.clearRsp]) hr rfl { hi with }
    | illegal h rest =>
      have refused := decodePacket_illegal_word hinc hd ws
      rw [step_illegal hr hb (hq ▸ refused)] at hs
      cases hs
      exact .of_tick (by simp [word, tickWord, hq, hd, State.clearRsp])
    | incomplete =>
      have taken : tick s = s.takeWord w ws := by
        simp [word, tickWord, hq, hd, State.clearRsp, State.takeWord]
      rw [← step_word_taken hr hb hq] at hs
      exact (TicksTo.of_tick taken).trans (ih hr (.inr (s.takeWord_packet_ne_nil w ws)) hd { hi with } hs rfl)

/-- Settles O52: the operation in progress by its plan, a packet by its words. -/
theorem stepIsARunOfTicks : Obligations.StepIsARunOfTicks := by
  intro s t h hr hs
  rcases step_cases hs with ⟨hr', -⟩ | ⟨-, hb, hpk, -, rfl⟩ | ⟨-, hb, -⟩
  · exact absurd (hr.symm.trans hr') nofun
  · exact TicksTo.of_clearRsp (ticksTo_proceed ⟨hr, hb, hpk, rfl⟩ h.clearRsp)
  · refine ticksTo_step_taking hr hb ?_ h.regs hs
    by_cases hpk : s.packet = []
    · rw [hpk]
      rfl
    · obtain ⟨-, -, -, -, -, hinc⟩ := h.taking hpk
      exact hinc

end Sys2Proof.Machine
end

section
/-! SUPPORT. Taking an operation, refused or accepted (R126), and an operation that fails at any of its writes (R80,
R127); then the INIT family: its raw phase, its failure and what it forgets (R86, R87, R92, R129). -/

namespace Sys2Proof.Machine

/-! ### Refusals -/

/-- Check 2 of R126: an operation other than INIT outside READY. -/
theorem accept_notUsable {i : Instr} {s : State} (hi : i.opcode ≠ .init) (hp : s.phase ≠ .ready) :
    accept i s = s.after [] s.answers .notUsable := by
  rw [← respond_eq_after]
  rcases accept_cases i s with ⟨h, -, -⟩ | ⟨n, rfl, -, -⟩ | ⟨n, rfl, -, -, -⟩ | ⟨on, -, h, -⟩ | ⟨-, -, h, -⟩
  · exact h
  · exact absurd rfl hi
  · exact absurd rfl hi
  · exact absurd h hp
  · exact absurd h hp

/-- Check 3 of R126: INIT without a transport set up, or with a line count other than 1 and 2 (R85). -/
theorem accept_configurationError {n : Byte} {s : State} (h : s.cfgValid = false ∨ (n ≠ 1 ∧ n ≠ 2)) :
    accept (.init n) s = s.after [] s.answers .configurationError := by
  have refused : ¬ (s.cfgValid = true ∧ lineCountOk n = true) := by
    rw [lineCountOk_iff]
    rintro ⟨hv, hn⟩
    rcases h with h | ⟨h₁, h₂⟩
    · exact absurd (hv.symm.trans h) nofun
    · exact hn.elim h₁ h₂
  rw [← respond_eq_after]
  simp [accept, acceptInit, refused]

/-- Outside READY an operation other than INIT is over with its refusal: no write is attempted (R92, R123). -/
theorem exec_notUsable {i : Instr} {s : State} (hi : i.opcode ≠ .init) (hp : s.phase ≠ .ready) :
    exec i s = .next (s.after [] s.answers .notUsable) := by
  rw [exec_eq_proceed, accept_notUsable hi hp, proceed_idle rfl]

/-! ### Acceptance -/

/-- Every operation but SET_BACKLIGHT sends at least one logical byte. -/
theorem logicalBytes_ne_nil {i : Instr} (h : i.opcode ≠ .setBacklight) : logicalBytes i ≠ [] := by
  cases i with
  | setBacklight on => exact absurd rfl h
  | _ => exact nofun

theorem sendAll_ne_nil (c : Config) (bl : Byte) {xs : List LogicalByte} (h : xs ≠ []) : sendAll c bl xs ≠ [] := by
  cases xs with
  | nil => exact absurd rfl h
  | cons x xs => exact nofun

/-- Settles O36: each clause is one branch of acceptance. -/
theorem acceptanceChecksAndWrites : Obligations.AcceptanceChecksAndWrites := by
  refine fun i s => ⟨accept_notUsable, ?_, ?_, ?_, fun h₁ h₂ hp => ?_⟩
  · rintro n rfl h
    exact accept_configurationError h
  · rintro n rfl hv hn
    exact ⟨_, accept_init hv hn, nofun⟩
  · rintro on rfl hp
    exact accept_setBacklight_ready hp on
  · exact ⟨_, accept_ready hp h₁ h₂, sendAll_ne_nil _ _ (logicalBytes_ne_nil h₂)⟩

/-! ### A failed write -/

/-- An operation taken, its write `k + 1` answered `fail`: its plan is cut there, and the phase is FAILED with nothing
committed (R80, R127). -/
theorem exec_failed {i : Instr} {s : State} {k : Nat} {rest : List Answer} (hb : (accept i s).busy = true)
    (hk : k < (writesOf (accept i s).plan).length) (ha : s.answers = oks k (.fail :: rest)) :
    exec i s = .next
      { (accept i s).after (cutAt (accept i s).plan k) rest .transportError with phase := .failed } := by
  obtain ⟨answers, -⟩ := accept_frame i s
  rw [exec_eq_proceed, proceed_failed hb (by rw [answers, ha]; exact runPlan_fail _ k rest hk)]

/-! ### INIT -/

/-- Settles O22: INIT's plan, which has 36 writes, cut over the fresh state; and FAILED is not READY. -/
theorem initFailsAtAnyWrite : Obligations.InitFailsAtAnyWrite := by
  refine ⟨fun s n k rest hv hn hk ha => ?_, fun i s hf hi => exec_notUsable hi (by simp [hf])⟩
  have taken := accept_init hv hn
  rw [exec_failed (by simp [taken]) (by simpa [taken] using hk) ha, taken]
  rfl

/-- INIT, once taken, does what its fresh state determines (R86): states with the same fresh state run it alike. -/
theorem exec_init_congr {s t : State} {n : Byte} (hv : s.cfgValid = true) (hn : n = 1 ∨ n = 2)
    (h : freshState n t = freshState n s) : exec (.init n) t = exec (.init n) s := by
  have config : t.config = s.config := by simpa using congrArg State.config h
  have valid : t.cfgValid = s.cfgValid := by simpa using congrArg State.cfgValid h
  rw [exec_eq_proceed, exec_eq_proceed, accept_init hv hn, accept_init (valid.trans hv) hn, config, h]

/-- Settles O23: the fresh state of R86 overwrites every field of the display state. -/
theorem initForgetsTheDisplayState : Obligations.InitForgetsTheDisplayState :=
  fun _ _ _ _ _ _ _ _ hv hn => exec_init_congr hv hn rfl

/-- Settles O18: the four cycles written out, and the two examples computed. -/
theorem rawPhaseIsFourSingleNibbleCycles : Obligations.RawPhaseIsFourSingleNibbleCycles :=
  ⟨fun _ _ => rfl, rfl, rfl⟩

end Sys2Proof.Machine
end

section
/-! SUPPORT. The two byte operations against each other (R99, R100): what the operation recorded as in progress decides,
and the register-select bit in every byte of an operation. -/

namespace Sys2Proof.Machine

/-! ### The operation in progress -/

/-- Two states alike but for which operation is in progress; one is, in both or in neither. -/
def SameButOperation (t u : State) : Prop :=
  { t with cur := none } = { u with cur := none } ∧ (t.cur = none ↔ u.cur = none)

theorem SameButOperation.of_eq {t u : State} (h : t = u) : SameButOperation t u := h ▸ ⟨rfl, Iff.rfl⟩

/-- The operation in progress matters to a run by its commit alone (R80): two that commit alike, started with one plan,
run alike. -/
theorem proceed_startOp_congr {i j : Instr} (h : commit i = commit j) (p : List PlanEvent) (s : State) :
    SameButOperation (proceed (startOp i p s)) (proceed (startOp j p s)) := by
  obtain ⟨-, shape⟩ := runPlan_cases p s.answers
  generalize run : runPlan p s.answers = r at shape
  obtain ⟨tr, left, rest, ending⟩ := r
  cases ending with
  | done =>
    obtain ⟨-, rfl⟩ := shape
    rw [proceed_done (s := startOp i p s) rfl run, proceed_done (s := startOp j p s) rfl run]
    refine .of_eq ?_
    simp only [commitCur, startOp_cur, h]
    exact respond_commit_congr j .ok _ _ rfl
  | failed =>
    obtain ⟨rfl, -⟩ := shape
    rw [proceed_failed (s := startOp i p s) rfl run, proceed_failed (s := startOp j p s) rfl run]
    exact .of_eq rfl
  | waiting =>
    obtain ⟨rfl, _, b, left, -, -, rfl⟩ := shape
    rw [proceed_waiting (s := startOp i p s) rfl run, proceed_waiting (s := startOp j p s) rfl run]
    exact ⟨rfl, nofun, nofun⟩

/-- Settles O26: outside READY both are refused; in READY both start one plan, and they commit alike. -/
theorem writeCharWithModeZeroIsWriteCommand : Obligations.WriteCharWithModeZeroIsWriteCommand := by
  refine fun s c => ⟨_, _, exec_eq_proceed _ s, exec_eq_proceed _ s, ?_⟩
  change SameButOperation _ _
  by_cases hp : s.phase = .ready
  · have commits : commit (.writeChar c false) = commit (.writeCommand c) := rfl
    rw [accept_ready (i := .writeChar c false) hp nofun nofun, accept_ready (i := .writeCommand c) hp nofun nofun]
    exact proceed_startOp_congr commits _ s
  · rw [accept_notUsable (i := .writeChar c false) nofun hp, accept_notUsable (i := .writeCommand c) nofun hp]
    exact .of_eq rfl

/-! ### The register-select bit -/

/-- The six bytes of a logical byte carry its mode: bit 0 of its two nibbles, which the strobe leaves alone (R78). -/
theorem sendByte_registerSelect {c : Config} {b w : Byte} {m bl : Bool}
    (h : w ∈ writesOf (sendByte c b (modeOf m) (blOf bl))) : w.getLsbD 0 = m := by
  obtain ⟨w₀, w₃, written, -, -, -, mode₀, mode₃, -⟩ := sendByteCanBeDecoded c b m bl
  have strobed (v : Byte) : (v ||| 0x04).getLsbD 0 = v.getLsbD 0 := by simp
  rw [written] at h
  simp only [List.mem_cons, List.not_mem_nil, or_false] at h
  rcases h with rfl | rfl | rfl | rfl | rfl | rfl
  · exact mode₀
  · exact (strobed w₀).trans mode₀
  · exact mode₀
  · exact mode₃
  · exact (strobed w₃).trans mode₃
  · exact mode₃

/-- In READY an operation with one logical byte writes bytes with that byte's register-select value only. -/
theorem accept_registerSelect {i : Instr} {s : State} {x : LogicalByte} {w : Byte} (hp : s.phase = .ready)
    (h₁ : i.opcode ≠ .init) (h₂ : i.opcode ≠ .setBacklight) (hx : logicalBytes i = [x])
    (h : w ∈ writesOf (accept i s).plan) : w.getLsbD 0 = x.data := by
  rw [accept_ready hp h₁ h₂, startOp_plan, hx, sendAll, sendAll, List.append_nil] at h
  exact sendByte_registerSelect h

/-- Settles O27: the one logical byte of each operation, and the example of R99 computed. -/
theorem registerSelectIsInEveryByteOfACharacter : Obligations.RegisterSelectIsInEveryByteOfACharacter := by
  refine fun s c hp => ⟨fun w => accept_registerSelect (i := .writeChar c true) hp nofun nofun rfl,
    fun w => accept_registerSelect (i := .writeCommand c) hp nofun nofun rfl, fun lit => ?_⟩
  rw [accept_ready (i := .writeChar 0x41 true) hp nofun nofun, lit]
  rfl

end Sys2Proof.Machine
end

section
/-! SUPPORT. CLEAR, every write answered `ok` (R110, R111), and the table of addressing commands (R106). -/

namespace Sys2Proof.Machine

/-! ### CLEAR -/

/-- CLEAR sends clear-display and return-home (R111); neither is of a kind the shadow registers record (R15). -/
theorem keepsRegisters_clear : KeepsRegisters .clear :=
  ⟨nofun, nofun, fun s => commit_eq_self s nofun nofun nofun⟩

/-- CLEAR sends 0x01, then 0x02, both with register-select 0, and no delay but those of the byte sender (R111). -/
theorem State.wireBytes_clear (s : State) :
    s.wireBytes (logicalBytes .clear) =
      wireByte s.config 0x01 false s.backlight ++ wireByte s.config 0x02 false s.backlight := by
  have sent : logicalBytes .clear = [controlByte 0x01] ++ [controlByte 0x02] := rfl
  rw [sent, State.wireBytes_append]
  simp [State.wireBytes, controlByte]

/-- Settles O32: the two logical bytes of the operation, which changes no register. -/
theorem clearCompletes : Obligations.ClearCompletes := by
  intro s rest hp ha
  rw [keepsRegisters_clear.exec_done hp ha, State.wireBytes_clear]

/-! ### The addressing command -/

/-- Settles O29: the sum modulo 256 for every line and column, and each row of the table computed. -/
theorem addressingCommandOfLineAndColumn : Obligations.AddressingCommandOfLineAndColumn :=
  ⟨addressCommand_eq, rfl, rfl, rfl, rfl, rfl, rfl, rfl, rfl, rfl, rfl, rfl⟩

end Sys2Proof.Machine
end

section
/-! SUPPORT. SET_BACKLIGHT (R115 to R118): its one write answered either way, and the sequence of R118. -/

namespace Sys2Proof.Machine

/-! ### The one write -/

/-- SET_BACKLIGHT in READY, its write answered `ok`: the backlight bit alone is on the wire, the flag has its new value,
and the commit records nothing (R116). -/
theorem exec_setBacklight_done {s : State} {on : Bool} {rest : List Answer} (hp : s.phase = .ready)
    (ha : s.answers = .ok :: rest) :
    exec (.setBacklight on) s = .next { s.after [.wrote (blOf on)] rest .ok with backlight := on } := by
  have taken := accept_setBacklight_ready hp on
  rw [exec_done (rest := rest) (by simp [taken]) (by simp [taken]) (by rw [taken]; exact ha), taken,
    commit_eq_self (i := .setBacklight on) _ nofun nofun nofun]
  rfl

/-- SET_BACKLIGHT in READY, its write answered `fail`: the flag was written at acceptance and stands (R116, D19). -/
theorem exec_setBacklight_failed {s : State} {on : Bool} {rest : List Answer} (hp : s.phase = .ready)
    (ha : s.answers = .fail :: rest) :
    exec (.setBacklight on) s = .next
      { s.after [.writeFailed (blOf on)] rest .transportError with backlight := on, phase := .failed } := by
  have taken := accept_setBacklight_ready hp on
  have oneWrite : 0 < (writesOf (accept (.setBacklight on) s).plan).length := by
    rw [taken]
    exact Nat.one_pos
  rw [exec_failed (k := 0) (by simp [taken]) oneWrite ha, taken]
  rfl

/-- Settles O33: the two answers its one write can have. -/
theorem setBacklightCompletesOrFails : Obligations.SetBacklightCompletesOrFails :=
  fun _ _ _ hp => ⟨exec_setBacklight_done hp, exec_setBacklight_failed hp⟩

/-! ### Off, a character, on -/

/-- The character 0x41 on the wire with the backlight off, at the spec's holds (R118): bit 3 clear in every byte. -/
theorem State.wireBytes_0x41_dark {s : State} (hc : s.config = Config.spec) (hb : s.backlight = false) :
    s.wireBytes (logicalBytes (.writeChar 0x41 true)) =
      [.wrote 0x41, .wrote 0x45, .delayed 5, .wrote 0x41, .delayed 1,
        .wrote 0x11, .wrote 0x15, .delayed 5, .wrote 0x11, .delayed 1] := by
  simp only [State.wireBytes, hc, hb]
  rfl

/-- Settles O34: each operation completes in READY and leaves READY to the next, with one, six and one of the eight
answers; the character between takes the flag as the first one left it. -/
theorem backlightOffThenOn : Obligations.BacklightOffThenOn := by
  intro s rest hp hc ha
  have off := exec_setBacklight_done (on := false) (rest := oks 7 rest) hp ha
  have char := (keepsRegisters_writeChar 0x41).exec_done (rest := oks 1 rest)
    (s := { s.after [.wrote 0x00] (oks 7 rest) .ok with backlight := false }) hp rfl
  refine ⟨_, _, _, off, rfl, rfl, rfl, char, ?_, exec_setBacklight_done hp rfl, rfl, rfl, rfl⟩
  refine congrArg (_ ++ ·) ?_
  exact State.wireBytes_0x41_dark hc rfl

end Sys2Proof.Machine
end

section
/-! SUPPORT. The end of an operation (R120 to R127): its one response, what each status says of it, and that every
step has a next state (R169). -/

namespace Sys2Proof.Machine

/-! ### One response -/

/-- From `u` to `v` an operation ended, with one response (R120). -/
def Answered (u v : State) : Prop :=
  v.ended = true ∧ ∃ st, v.responses = u.responses ++ [st] ∧ v.rsp = some st

/-- From `u` to `v` the operation `i` came to a write that the silent transport has not answered: it is in progress with
that write on the port, and nothing was responded (R34, R160). -/
def WaitsAtWrite (i : Instr) (u v : State) : Prop :=
  v.busy = true ∧ v.cur = some i ∧ v.responses = u.responses ∧ v.rsp = u.rsp ∧ v.answers = [] ∧
    ∃ b, v.txPort = some b ∧ headWrite v.plan = some b

theorem respond_answered (st : Status) (s : State) : Answered s (respond st s) := ⟨respond_ended st s, st, rfl, rfl⟩

/-- The plan of an operation runs to its one response or to an unanswered write (R80). -/
theorem proceed_answered_or_waits {i : Instr} {s : State} (hb : s.busy = true) (hc : s.cur = some i) :
    Answered s (proceed s) ∨ WaitsAtWrite i s (proceed s) := by
  rcases proceed_cases s with ⟨hb', -⟩ | ⟨rest, -, -, e⟩ | ⟨rest, done, b, left, -, -, -, e⟩ |
    ⟨done, b, left, -, -, e⟩
  · exact absurd (hb.symm.trans hb') nofun
  · rw [e, commitCur_frame]
    exact .inl (respond_answered .ok _)
  · exact e ▸ .inl ⟨rfl, .transportError, rfl, rfl⟩
  · exact e ▸ .inr ⟨hb, hc, rfl, rfl, rfl, b, rfl, rfl⟩

/-- An operation that is taken is refused with a response, or its plan is run from acceptance, which responds nothing
(R126). -/
theorem exec_answered_or_waits {i : Instr} {s t : State} (h : exec i s = .next t) :
    Answered s t ∨ WaitsAtWrite i s t := by
  rcases exec_cases h with ⟨rfl, -⟩ | ⟨rfl, -⟩ | ⟨a, -, rfl, hb, hc, -, -, -, responses, rsp, -⟩
  · exact .inl (respond_answered _ s)
  · exact .inl (respond_answered _ s)
  · simpa only [Answered, WaitsAtWrite, responses, rsp] using proceed_answered_or_waits hb hc

/-- Settles O39: an operation executed, and one that a step goes on with. -/
theorem oneResponsePerOperation : Obligations.OneResponsePerOperation := by
  refine ⟨fun i s t => exec_answered_or_waits, fun i s t hr hb hpk hc hs => ?_⟩
  rw [step_running hr hb hpk hc] at hs
  cases hs
  exact proceed_answered_or_waits (s := s.clearRsp) hb hc

/-! ### What a status says -/

/-- What the response says of the operation `i`, executed from `s` to `t` (R121 to R125): OK leaves READY and
TransportError FAILED, a refusal names the check that failed and changes neither phase nor trace, and a legal request is
no IllegalRequest. -/
def ResponseSays (i : Instr) (s t : State) : Option Status → Prop
  | none => True
  | some .ok => t.phase = .ready
  | some .transportError => t.phase = .failed
  | some .configurationError =>
    (∃ n, i = .init n ∧ (s.cfgValid = false ∨ (n ≠ 1 ∧ n ≠ 2))) ∧ t.phase = s.phase ∧ t.trace = s.trace
  | some .notUsable => (i.opcode ≠ .init ∧ s.phase ≠ .ready) ∧ t.phase = s.phase ∧ t.trace = s.trace
  | some .illegalRequest => False

/-- The configuration check of INIT fails on the input `cfg_valid` or on the line count (R85). -/
theorem configuration_refused_iff (s : State) (n : Byte) :
    (s.cfgValid && lineCountOk n) = false ↔ s.cfgValid = false ∨ (n ≠ 1 ∧ n ≠ 2) := by
  rw [Bool.and_eq_false_iff, ← Bool.not_eq_true (lineCountOk n), lineCountOk_iff, not_or]

/-- An operation accepted in the phase it runs in ends in READY or in FAILED as its response says. -/
theorem proceed_responseSays {i : Instr} {s a : State} (hb : a.busy = true) (hc : a.cur = some i)
    (hrsp : a.rsp = none) (hp : i.opcode ≠ .init → a.phase = .ready) :
    ResponseSays i s (proceed a) (proceed a).rsp := by
  rcases proceed_phase hb hc with ⟨phase, rsp⟩ | ⟨phase, rsp⟩ | ⟨-, hbusy⟩
  · rw [rsp]
    by_cases hi : i.opcode = .init
    · exact phase.trans (if_pos hi)
    · exact (phase.trans (if_neg hi)).trans (hp hi)
  · rw [rsp]
    exact phase
  · obtain ⟨-, -, -, rsp⟩ := proceed_busy_frame hbusy
    rw [rsp, hrsp]
    trivial

/-- Whatever an operation is answered, the response says what happened to it. -/
theorem exec_responseSays {i : Instr} {s t : State} (hrsp : s.rsp = none) (h : exec i s = .next t) :
    ResponseSays i s t t.rsp := by
  rw [exec_eq_proceed] at h
  cases h
  rcases accept_cases i s with ⟨e, hi, hp⟩ | ⟨n, rfl, refused, e⟩ | ⟨n, rfl, -, -, e⟩ | ⟨on, rfl, hp, e⟩ |
    ⟨hi, -, hp, e⟩ <;> rw [e]
  · exact ⟨⟨hi, hp⟩, rfl, rfl⟩
  · exact ⟨⟨n, rfl, (configuration_refused_iff s n).1 refused⟩, rfl, rfl⟩
  · exact proceed_responseSays rfl rfl hrsp (absurd rfl)
  · exact proceed_responseSays rfl rfl hrsp fun _ => hp
  · exact proceed_responseSays rfl rfl hrsp fun _ => hp

/-- What a given response says. -/
theorem exec_responseSays_of_rsp {i : Instr} {s t : State} {r : Option Status} (hrsp : s.rsp = none)
    (h : exec i s = .next t) (hr : t.rsp = r) : ResponseSays i s t r :=
  hr ▸ exec_responseSays hrsp h

/-- Settles O38: each status by what it says, which for the two refusals also tells the operation. -/
theorem statusesOfEachOperation : Obligations.StatusesOfEachOperation := by
  intro i s t hrsp h
  have meaning {r : Option Status} : t.rsp = r → ResponseSays i s t r := exec_responseSays_of_rsp hrsp h
  refine ⟨fun st hst => ?_, meaning, meaning, fun hr => ?_, fun hr => ?_⟩
  · cases st with
    | ok => exact ⟨fun _ => .inl rfl, fun _ => .inl rfl⟩
    | transportError => exact ⟨fun _ => .inr (.inl rfl), fun _ => .inr (.inl rfl)⟩
    | configurationError =>
      obtain ⟨⟨n, rfl, -⟩, -⟩ := meaning hst
      exact ⟨fun _ => .inr (.inr rfl), absurd rfl⟩
    | notUsable =>
      obtain ⟨⟨hi, -⟩, -⟩ := meaning hst
      exact ⟨fun h => absurd h hi, fun _ => .inr (.inr rfl)⟩
    | illegalRequest => exact (meaning hst).elim
  · obtain ⟨⟨-, hp⟩, unchanged⟩ := meaning hr
    exact ⟨hp, unchanged⟩
  · obtain ⟨-, unchanged⟩ := meaning hr
    exact unchanged

/-- Settles O21: the refused check leaves nothing to run, and no other response says that it was refused. -/
theorem initRefusesAnInvalidConfiguration : Obligations.InitRefusesAnInvalidConfiguration := by
  refine ⟨fun s n h => ?_, rfl, fun i s t hrsp he hr => ?_⟩
  · rw [exec_eq_proceed, accept_configurationError h, proceed_idle rfl]
  · obtain ⟨invalid, -⟩ := exec_responseSays_of_rsp hrsp he hr
    exact invalid

/-- Settles O37: the step that takes the last word of the packet executes the operation, which is refused. -/
theorem notUsableOutsideReady : Obligations.NotUsableOutsideReady := by
  refine ⟨fun s i rest hr hb hp hi hd => ?_, rfl, fun i s t hrsp he hn => ?_⟩
  · rw [step_packet hr hb hd, exec_notUsable (s := { s with packet := [], requests := rest, rsp := none }) hi hp]
    rfl
  · obtain ⟨refused, -⟩ := exec_responseSays_of_rsp hrsp he hn
    exact refused

/-! ### A failed write in a later step -/

/-- A step that goes on with an operation whose write `k + 1` from here is answered `fail` cuts what is left of its plan
there; the phase is FAILED and nothing is committed (R80, R127). -/
theorem step_failed {i : Instr} {s : State} {k : Nat} {rest : List Answer} (hr : s.rst = false) (hb : s.busy = true)
    (hpk : s.packet = []) (hc : s.cur = some i) (hk : k < (writesOf s.plan).length)
    (ha : s.answers = oks k (.fail :: rest)) :
    step s = .next { s.after (cutAt s.plan k) rest .transportError with phase := .failed } := by
  have fails : runPlan s.clearRsp.plan s.clearRsp.answers =
      { trace := cutAt s.plan k, plan := [], answers := rest, ending := .failed } := ha ▸ runPlan_fail s.plan k rest hk
  rw [step_running hr hb hpk hc, proceed_failed (s := s.clearRsp) hb fails]
  rfl

/-- Settles O35: from acceptance, and from where the operation was waiting. -/
theorem failedWriteAbortsTheOperation : Obligations.FailedWriteAbortsTheOperation :=
  ⟨fun _ _ _ _ => exec_failed, fun _ _ _ _ => step_failed⟩

/-! ### The next state -/

/-- Settles O56: the one fault of a step is a busy block with no packet and no operation, which the invariant excludes;
a step that takes words has a next state whatever they decode to. -/
theorem stepNeverStops : Obligations.StepNeverStops := by
  intro s h
  cases hr : s.rst with
  | true => exact ⟨resetBlock s, if_pos hr⟩
  | false =>
    by_cases running : s.busy = true ∧ s.packet = []
    · obtain ⟨hb, hpk⟩ := running
      obtain ⟨i, hc⟩ := Option.ne_none_iff_exists'.1 (h.running hb hpk)
      exact ⟨_, step_running hr hb hpk hc⟩
    · have hb : s.busy = false ∨ s.packet ≠ [] := by simpa [imp_iff_not_or] using running
      cases hd : decodePacket (s.packet ++ s.requests) with
      | packet i rest => exact ⟨_, (step_packet hr hb hd).trans (exec_eq_proceed i _)⟩
      | illegal w rest => exact ⟨_, step_illegal hr hb hd⟩
      | incomplete => exact ⟨_, step_incomplete hr hb hd⟩

end Sys2Proof.Machine
end

section
/-! SUPPORT. What a reset cycle does to the operation in progress and to the write on the port (R145, R147). -/

namespace Sys2Proof.Machine

/-- With `rst` asserted a step is a reset cycle, whatever is in progress (R145). -/
theorem step_reset {s : State} (hr : s.rst = true) : step s = .next (resetBlock s) := if_pos hr

/-- A reset cycle withdraws nothing from an empty port. -/
theorem withdrawnWrite_eq_nil {s : State} (h : s.txPort = none) : withdrawnWrite s = [] := by
  simp [withdrawnWrite, h]

/-- The write outstanding on the port reached the expander or it did not: the free value decides (R147). -/
theorem withdrawnWrite_eq_nil_or {s : State} {b : Byte} (h : s.txPort = some b) :
    withdrawnWrite s = [] ∨ withdrawnWrite s = [.wrote b] := by
  cases lands : Config.withdrawnWriteLands s.freeCount <;> simp [withdrawnWrite, h, lands]

/-- While `rst` is held the block takes no word, asks for no write and presents no response (R145). -/
theorem outputs_of_rst {t : State} (hr : t.rst = true) :
    t.outputs.tx = none ∧ t.outputs.reqReady = false ∧ t.outputs.rsp = none := by
  simp [State.outputs, hr]

/-- Settles O45: the step is the reset cycle, whose fields are the reset values; its ports are down because `rst` is
still held, and what it adds to the trace is the withdrawn write or nothing. -/
theorem resetAbandonsTheOperation : Obligations.ResetAbandonsTheOperation := by
  intro s hr
  obtain ⟨tx, reqReady, rsp⟩ := outputs_of_rst (t := resetBlock s) hr
  exact ⟨resetBlock s, withdrawnWrite s, step_reset hr, rfl, rfl, rfl, rfl, rfl, rfl, rfl, tx, reqReady, rsp, rfl, rfl,
    rfl, withdrawnWrite_eq_nil, fun _ => withdrawnWrite_eq_nil_or⟩

end Sys2Proof.Machine
end
